-- ==== Sys2Proof/Word.lean ====
section
/-!
DEFINITION. The widths of chip8-rs (00_scope.md R5, R6): everything software handles is an unsigned
value of 4, 8, 12 or 16 bits. No value of the block is signed and none is sign-extended (R6, R73).
-/

namespace Sys2Proof

/-- 8 bits: a `V` register, a memory cell, `DT`, `ST`, the immediate `kk` (R6; "byte", 90_conflicts.md C4). -/
abbrev Byte := BitVec 8

/-- 16 bits: `PC`, `I`, `KEYPAD`, a stack entry, the instruction word (R6; "dword", C4). -/
abbrev Word := BitVec 16

/-- 4 bits: the fields `x`, `y`, `n` of an instruction (30_encoding.md R71). As an operand `x` or `y`
it names one of the sixteen registers, so no register number is out of range (R10, R73). -/
abbrev Nibble := BitVec 4

/-- 12 bits: the field `nnn` of an instruction (R71). -/
abbrev Addr := BitVec 12

end Sys2Proof
end

