-- ==== Sys2Proof/Machine/Bitfield.lean ====
section
/-!
DEFINITION. The bitfields of the storage layer (20_memory.md R42 to R45). A descriptor is a pair
(start, length); bit 0 is the least significant bit. The instruction fields (R71), the key bits of `KEYPAD`
(R160, R165) and the bits of a sprite row (R153) are read and written through these.
-/

namespace Sys2Proof.Machine

/-- The invariant of a descriptor on an element of `w` bits: `start + length <= w` (R42). -/
def fieldFits (w start length : Nat) : Bool := decide (start + length ≤ w)

/-- `2^length - 1` as an element of `w` bits (R42). -/
def fieldMask (w length : Nat) : BitVec w := BitVec.ofNat w (2 ^ length - 1)

/-- `read_bitfield` (R43): shift the field down and mask it. -/
def readField {w : Nat} (v : BitVec w) (start length : Nat) : BitVec w :=
  (v >>> start) &&& fieldMask w length

/-- `write_bitfield` (R44): clear the field, then OR in the value cut to the field's width. -/
def writeField {w : Nat} (old : BitVec w) (start length : Nat) (value : BitVec w) : BitVec w :=
  (old &&& ~~~(fieldMask w length <<< start)) ||| ((value &&& fieldMask w length) <<< start)

/-- A field of the instruction word in its own width (R71): `read_bitfield`, then its `length` low bits. -/
def instrField (w : Word) (start length : Nat) : BitVec length :=
  (readField w start length).setWidth length

end Sys2Proof.Machine
end

