-- ==== Sys2Proof/Syntax.lean ====
section
/-!
DEFINITION. The 35 instructions of 30_encoding.md R75, one constructor per row of the opcode table, in the
order of the opcode indices. Operands are the fields of R71, each in its own width; the ignored fields of R77
(`n` of `sifeq`, `y` of `shr1` and `shl1`) are kept, so that no bit of a word is lost.
-/

namespace Sys2Proof

/-- An instruction (R75). -/
inductive Instr where
  /-- `0nnn`, every `nnn` but 0x0E0 and 0x0EE (R101). -/
  | sys (nnn : Addr)
  /-- `00E0` (R151). -/
  | cls
  /-- `00EE` (R102). -/
  | ret
  /-- `1nnn` (R103). -/
  | jump (nnn : Addr)
  /-- `2nnn` (R104). -/
  | call (nnn : Addr)
  /-- `3xkk` (R106). -/
  | sifeqi (x : Nibble) (kk : Byte)
  /-- `4xkk` (R107). -/
  | sifnei (x : Nibble) (kk : Byte)
  /-- `5xyn`, `n` ignored (R108, R77). -/
  | sifeq (x y n : Nibble)
  /-- `6xkk` (R121). -/
  | movi (x : Nibble) (kk : Byte)
  /-- `7xkk` (R122). -/
  | addi (x : Nibble) (kk : Byte)
  /-- `8xy0` (R123). -/
  | mov (x y : Nibble)
  /-- `8xy1` (R124). -/
  | or (x y : Nibble)
  /-- `8xy2` (R125). -/
  | and (x y : Nibble)
  /-- `8xy3` (R126). -/
  | xor (x y : Nibble)
  /-- `8xy4` (R127). -/
  | add (x y : Nibble)
  /-- `8xy5` (R128). -/
  | sub (x y : Nibble)
  /-- `8xy6`, `y` ignored (R129, R77). -/
  | shr1 (x y : Nibble)
  /-- `8xy7` (R130). -/
  | rsub (x y : Nibble)
  /-- `8xyE`, `y` ignored (R131, R77). -/
  | shl1 (x y : Nibble)
  /-- `9xy0` (R109). -/
  | sifne (x y : Nibble)
  /-- `Annn` (R141). -/
  | movidx (nnn : Addr)
  /-- `Bnnn` (R105). -/
  | jumpv0 (nnn : Addr)
  /-- `Cxkk` (R133). -/
  | rand (x : Nibble) (kk : Byte)
  /-- `Dxyn` (R153). -/
  | draw (x y n : Nibble)
  /-- `Ex9E` (R161). -/
  | sifkeq (x : Nibble)
  /-- `ExA1` (R162). -/
  | sifkne (x : Nibble)
  /-- `Fx07` (R166). -/
  | timerr (x : Nibble)
  /-- `Fx0A` (R164). -/
  | keyr (x : Nibble)
  /-- `Fx15` (R167). -/
  | timerw (x : Nibble)
  /-- `Fx18` (R168). -/
  | soundw (x : Nibble)
  /-- `Fx1E` (R142). -/
  | addidx (x : Nibble)
  /-- `Fx29` (R143). -/
  | font (x : Nibble)
  /-- `Fx33` (R144). -/
  | bcd (x : Nibble)
  /-- `Fx55` (R145). -/
  | save (x : Nibble)
  /-- `Fx65` (R146). -/
  | load (x : Nibble)
deriving DecidableEq, Repr

end Sys2Proof
end

