-- ==== Sys2Proof/WellFormed.lean ====
section
/-!
DEFINITION. Which terms of `Instr` some instruction word encodes. The widths of the operands say everything but one
thing: the words 0x00E0 and 0x00EE are `cls` and `ret`, so `sys` takes every `nnn` but those two (30_encoding.md R75, R78).
-/

namespace Sys2Proof

/-- `nnn` is an operand of `sys`: neither `cls` nor `ret` owns the word (R78). -/
def Instr.sysOperandOk (nnn : Addr) : Bool := nnn != 0x0E0#12 && nnn != 0x0EE#12

/-- The instruction is the reading of some word. -/
def Instr.wellFormed : Instr → Bool
  | .sys nnn => Instr.sysOperandOk nnn
  | .cls | .ret | .jump _ | .call _ | .sifeqi _ _ | .sifnei _ _ | .sifeq _ _ _ | .movi _ _ | .addi _ _
  | .mov _ _ | .or _ _ | .and _ _ | .xor _ _ | .add _ _ | .sub _ _ | .shr1 _ _ | .rsub _ _ | .shl1 _ _
  | .sifne _ _ | .movidx _ | .jumpv0 _ | .rand _ _ | .draw _ _ _ | .sifkeq _ | .sifkne _ | .timerr _ | .keyr _
  | .timerw _ | .soundw _ | .addidx _ | .font _ | .bcd _ | .save _ | .load _ => true

end Sys2Proof
end

