-- ==== Sys2Proof/Decode.lean ====
section
/-!
DEFINITION. Decode and encode (30_encoding.md R70 to R79). `decodeWord` is the case tree of R74; a word that it does not map is
"unknown" and is rejected under the name of its family (R76). `decodeBytes` takes the two bytes of a word in memory order
(R70: big-endian). `encode` lays the fields out as the formats of R72 and the patterns of R75 give them.
-/

namespace Sys2Proof

open Sys2Proof.Machine (instrField)

/-- Why bytes are no instruction. -/
inductive DecodeReject where
  /-- Fewer than the two bytes of an instruction (R70). -/
  | truncated
  /-- Family 0x8 with a low nibble of no instruction (R76). -/
  | unknownArithmetic
  /-- Family 0x9 with a low nibble other than 0 (R76). -/
  | unknownSkip
  /-- Family 0xE with a low byte other than 0x9E and 0xA1 (R76). -/
  | unknownKey
  /-- Family 0xF with a low byte of no instruction (R76). -/
  | unknownMisc
deriving DecidableEq, Repr

/-- The fields of an instruction word (R71). -/
def fieldOp (w : Word) : Nibble := instrField w 12 4
def fieldX (w : Word) : Nibble := instrField w 8 4
def fieldY (w : Word) : Nibble := instrField w 4 4
def fieldN (w : Word) : Nibble := instrField w 0 4
def fieldKk (w : Word) : Byte := instrField w 0 8
def fieldNnn (w : Word) : Addr := instrField w 0 12

/-- Family 0x0: all twelve low bits are compared (R74). -/
def decodeZero (w : Word) : Instr :=
  if w = 0x00E0#16 then .cls else if w = 0x00EE#16 then .ret else .sys (fieldNnn w)

/-- Family 0x8, keyed on the low nibble (R74). -/
def decodeArithmetic (w : Word) : Except DecodeReject Instr :=
  match (fieldN w).toNat with
  | 0x0 => .ok (.mov (fieldX w) (fieldY w))
  | 0x1 => .ok (.or (fieldX w) (fieldY w))
  | 0x2 => .ok (.and (fieldX w) (fieldY w))
  | 0x3 => .ok (.xor (fieldX w) (fieldY w))
  | 0x4 => .ok (.add (fieldX w) (fieldY w))
  | 0x5 => .ok (.sub (fieldX w) (fieldY w))
  | 0x6 => .ok (.shr1 (fieldX w) (fieldY w))
  | 0x7 => .ok (.rsub (fieldX w) (fieldY w))
  | 0xE => .ok (.shl1 (fieldX w) (fieldY w))
  | _ => .error .unknownArithmetic

/-- Family 0xE, keyed on the low byte (R74). -/
def decodeKey (w : Word) : Except DecodeReject Instr :=
  match (fieldKk w).toNat with
  | 0x9E => .ok (.sifkeq (fieldX w))
  | 0xA1 => .ok (.sifkne (fieldX w))
  | _ => .error .unknownKey

/-- Family 0xF, keyed on the low byte (R74). -/
def decodeMisc (w : Word) : Except DecodeReject Instr :=
  match (fieldKk w).toNat with
  | 0x07 => .ok (.timerr (fieldX w))
  | 0x0A => .ok (.keyr (fieldX w))
  | 0x15 => .ok (.timerw (fieldX w))
  | 0x18 => .ok (.soundw (fieldX w))
  | 0x1E => .ok (.addidx (fieldX w))
  | 0x29 => .ok (.font (fieldX w))
  | 0x33 => .ok (.bcd (fieldX w))
  | 0x55 => .ok (.save (fieldX w))
  | 0x65 => .ok (.load (fieldX w))
  | _ => .error .unknownMisc

/-- `decode(w)` (R74): total and single-valued. A nibble is below 16, so the last arm is family 0xF alone. -/
def decodeWord (w : Word) : Except DecodeReject Instr :=
  match (fieldOp w).toNat with
  | 0x0 => .ok (decodeZero w)
  | 0x1 => .ok (.jump (fieldNnn w))
  | 0x2 => .ok (.call (fieldNnn w))
  | 0x3 => .ok (.sifeqi (fieldX w) (fieldKk w))
  | 0x4 => .ok (.sifnei (fieldX w) (fieldKk w))
  | 0x5 => .ok (.sifeq (fieldX w) (fieldY w) (fieldN w))
  | 0x6 => .ok (.movi (fieldX w) (fieldKk w))
  | 0x7 => .ok (.addi (fieldX w) (fieldKk w))
  | 0x8 => decodeArithmetic w
  | 0x9 => if fieldN w = 0x0#4 then .ok (.sifne (fieldX w) (fieldY w)) else .error .unknownSkip
  | 0xA => .ok (.movidx (fieldNnn w))
  | 0xB => .ok (.jumpv0 (fieldNnn w))
  | 0xC => .ok (.rand (fieldX w) (fieldKk w))
  | 0xD => .ok (.draw (fieldX w) (fieldY w) (fieldN w))
  | 0xE => decodeKey w
  | _ => decodeMisc w

/-- The 16-bit value of two bytes in memory order: the first is the high byte (R49, R70). -/
def wordOfBytes (hi lo : Byte) : Word := hi ++ lo

/-- The two bytes of a 16-bit value in memory order (R50). -/
def highByte (w : Word) : Byte := w.extractLsb' 8 8
def lowByte (w : Word) : Byte := w.extractLsb' 0 8

/-- The instruction at the head of a list of bytes, and the bytes after it (R70: two bytes, always). -/
def decodeBytes : List Byte → Except DecodeReject (Instr × List Byte)
  | hi :: lo :: rest =>
    match decodeWord (wordOfBytes hi lo) with
    | .ok i => .ok (i, rest)
    | .error r => .error r
  | _ => .error .truncated

/-- Formats of R72, high bits first. -/
def encodeA (op : Nibble) (nnn : Addr) : Word := op ++ nnn
def encodeXK (op x : Nibble) (kk : Byte) : Word := (op ++ x) ++ kk
def encodeXYN (op x y n : Nibble) : Word := (op ++ x) ++ (y ++ n)

/-- The word of an instruction, from the patterns of R75. -/
def encode : Instr → Word
  | .sys nnn => encodeA 0x0 nnn
  | .cls => 0x00E0
  | .ret => 0x00EE
  | .jump nnn => encodeA 0x1 nnn
  | .call nnn => encodeA 0x2 nnn
  | .sifeqi x kk => encodeXK 0x3 x kk
  | .sifnei x kk => encodeXK 0x4 x kk
  | .sifeq x y n => encodeXYN 0x5 x y n
  | .movi x kk => encodeXK 0x6 x kk
  | .addi x kk => encodeXK 0x7 x kk
  | .mov x y => encodeXYN 0x8 x y 0x0
  | .or x y => encodeXYN 0x8 x y 0x1
  | .and x y => encodeXYN 0x8 x y 0x2
  | .xor x y => encodeXYN 0x8 x y 0x3
  | .add x y => encodeXYN 0x8 x y 0x4
  | .sub x y => encodeXYN 0x8 x y 0x5
  | .shr1 x y => encodeXYN 0x8 x y 0x6
  | .rsub x y => encodeXYN 0x8 x y 0x7
  | .shl1 x y => encodeXYN 0x8 x y 0xE
  | .sifne x y => encodeXYN 0x9 x y 0x0
  | .movidx nnn => encodeA 0xA nnn
  | .jumpv0 nnn => encodeA 0xB nnn
  | .rand x kk => encodeXK 0xC x kk
  | .draw x y n => encodeXYN 0xD x y n
  | .sifkeq x => encodeXK 0xE x 0x9E
  | .sifkne x => encodeXK 0xE x 0xA1
  | .timerr x => encodeXK 0xF x 0x07
  | .keyr x => encodeXK 0xF x 0x0A
  | .timerw x => encodeXK 0xF x 0x15
  | .soundw x => encodeXK 0xF x 0x18
  | .addidx x => encodeXK 0xF x 0x1E
  | .font x => encodeXK 0xF x 0x29
  | .bcd x => encodeXK 0xF x 0x33
  | .save x => encodeXK 0xF x 0x55
  | .load x => encodeXK 0xF x 0x65

/-- The bytes of an instruction in memory order (R50, R70). -/
def encodeBytes (i : Instr) : List Byte := [highByte (encode i), lowByte (encode i)]

/-- The word of an opcode-table row: the low `nbits` bits of `w`, every bit above them 0. -/
def tableWord (nbits w : Nat) : Word := BitVec.ofNat 16 (w % 2 ^ nbits)

/-- The instruction the decoder reads from the bits `w` of an opcode-table row, laid out as the machine stores
them (R70). -/
def decodeTableWord (nbits w : Nat) : Option Instr :=
  match decodeBytes [highByte (tableWord nbits w), lowByte (tableWord nbits w)] with
  | .ok (i, _) => some i
  | .error _ => none

end Sys2Proof
end

