-- ==== Sys2Proof/Config.lean ====
section
/-!
DEFINITION. What an implementation fixes (00_scope.md R5), the host's operations as data
(46_clock_and_events.md R188 to R193), and the FREE VALUES: constants with no body, of which nothing can be
proved but their type, so that a statement that mentions one holds whatever it is.
-/

namespace Sys2Proof

/-- The three controllers (R9, R221). -/
inductive Ctrl where
  | cpu
  | sound
  | timer
deriving DecidableEq, Repr, Inhabited

/-- `DISPATCH_MODE` (R24, R183). -/
inductive DispatchMode where
  | sequential
  | concurrent
deriving DecidableEq, Repr, Inhabited

/-- One operation of the host: the four public operations (R188 to R191) and the configuration changes
(R24, R192). What the block takes from a collaborator outside it is part of the argument (R3). -/
inductive HostOp where
  /-- `reset(rom)` (R188): the image, or `none` where the loader cannot supply one (R232), and `FONT_TABLE` (R231). -/
  | reset (image : Option (List Byte)) (font : Vector Byte 80)
  /-- `run(time_delta_us)` (R189): one frame. -/
  | run (micros : Nat)
  /-- `set_key(key, pressed)` (R190): any index; one above 15 is answered `InvalidKey`. -/
  | setKey (key : Nat) (pressed : Bool)
  /-- `dump_memory` (R191); `writable` says whether the host's file writer succeeds. -/
  | dumpMemory (writable : Bool)
  /-- A new `BIAS_c`, as the 64 bits of a binary64 number (R173, R192). Assumption 8 (DESIGN CHOICE). -/
  | setBias (c : Ctrl) (bits : BitVec 64)
  /-- A new `DISPATCH_MODE` (R192). -/
  | setDispatch (mode : DispatchMode)
  /-- Attach or detach the video and the audio callback (R192). -/
  | setCallbacks (video audio : Bool)
deriving DecidableEq, Repr, Inhabited

/-- `MEM_SIZE` (R5, R46). -/
abbrev Config.memSize : Nat := 4096

/-- `FB_W` (R5, R17). -/
abbrev Config.fbW : Nat := 64

/-- `FB_H` (R5, R17). -/
abbrev Config.fbH : Nat := 32

/-- `STACK_DEPTH` (R5, R14). -/
abbrev Config.stackDepth : Nat := 16

/-- `PROG_BASE` (R5). -/
abbrev Config.progBase : Nat := 0x200

/-- `PROG_MAX` (R5, R232). -/
abbrev Config.progMax : Nat := 3584

/-- The part of `QUEUE_CAP` above 2: the parameter is OPEN and at least 2 (R5, R177, decision D24).
FREE VALUE, assumption 9; safe. -/
opaque Config.queueCapAboveTwo : Nat

/-- `QUEUE_CAP` (R177). -/
def Config.queueCap : Nat := Config.queueCapAboveTwo + 2

/-- The byte `draw8()` yields at the `n`-th free choice of a run (42_alu.md R132).
FREE VALUE, assumption 4; safe. -/
opaque Config.draw8 : Nat → Byte

/-- Which of the controllers with work moves next in concurrent dispatch, at the `n`-th free choice (60_exceptions.md
R222). FREE VALUE, assumption 6; safe. -/
opaque Config.schedule : Nat → Nat

/-- The operation the host performs next when State holds none, at the `n`-th free choice (R26).
FREE VALUE, assumption 5; safe. -/
opaque Config.hostOp : Nat → HostOp

/-- Whether phase 3 of a faulting frame delivers the queued notifications, at the `n`-th free choice
(60_exceptions.md R206, 93_implementation_defined.md U11). FREE VALUE, assumption 3; safe. -/
opaque Config.deliverOnFault : Nat → Bool

end Sys2Proof
end

