-- ==== Sys2Proof/Machine/F64.lean ====
section
/-!
DEFINITION. `ACC_FORMAT` (46_clock_and_events.md R174): IEEE 754 binary64, round to nearest, ties to even, for the
accumulators, the rates and every intermediate. Only finite numbers that are not negative occur (R170, R173), and each of
them is a whole multiple of 2^-1074, the least positive binary64 number: a number is held as that multiple, a `Nat`. Rounding keeps 53
significant bits, or the step 2^-1074 below 2^-1021. Assumption 7 (DESIGN CHOICE): no number is so large that binary64 would have
no finite value for it, as R174 says ("NaN and infinity cannot arise").
-/

namespace Sys2Proof.Machine

/-- A finite binary64 number that is not negative: the value is `units * 2^-1074`. -/
structure F64 where
  units : Nat
deriving DecidableEq, Repr, Inhabited

/-- The units of the number 1: 2^1074, written as a product of powers the elaborator will evaluate. -/
def F64.oneUnits : Nat := 2 ^ 256 * 2 ^ 256 * 2 ^ 256 * 2 ^ 256 * 2 ^ 50

/-- The distance between neighbouring binary64 numbers at a magnitude of `k` units: 1 while `k` has at most 53 bits, else
what leaves 53 bits. -/
def F64.quantum (k : Nat) : Nat := if k < 2 ^ 53 then 1 else 2 ^ (k.log2 - 52)

/-- A number of units that binary64 has: a multiple of the distance at its own magnitude. -/
def F64.representable (x : F64) : Prop := F64.quantum x.units ∣ x.units

/-- The exact number `num / den` units, rounded to nearest, ties to even (R174). -/
def F64.round (num den : Nat) : F64 :=
  let q := F64.quantum (num / den)
  let step := den * q
  let lo := num / step
  let rest := num % step
  if 2 * rest < step ∨ (2 * rest = step ∧ lo % 2 = 0) then ⟨lo * q⟩ else ⟨(lo + 1) * q⟩

/-- 0.0 (R28). -/
def F64.zero : F64 := ⟨0⟩

/-- 1.0, the default of the biases (R173). -/
def F64.one : F64 := ⟨F64.oneUnits⟩

/-- A natural number converted to the format (R171: `elapsed_us` is converted first). -/
def F64.ofNat (n : Nat) : F64 := F64.round (n * F64.oneUnits) 1

/-- Sum, rounded. -/
def F64.add (a b : F64) : F64 := F64.round (a.units + b.units) 1

/-- Product, rounded. -/
def F64.mul (a b : F64) : F64 := F64.round (a.units * b.units) F64.oneUnits

/-- Quotient by a natural number that the format holds exactly, rounded. -/
def F64.divNat (a : F64) (d : Nat) : F64 := F64.round a.units d

/-- The whole part (R172). -/
def F64.floor (a : F64) : Nat := a.units / F64.oneUnits

/-- What is left after the whole part; exact (R172). -/
def F64.fract (a : F64) : F64 := ⟨a.units % F64.oneUnits⟩

/-- The number that 64 bits stand for (sign 63, exponent 62:52, fraction 51:0), where it is finite and not
negative (R173); `none` for a negative number, an infinity or NaN. Minus zero is zero. Assumption 8. -/
def F64.ofBits (bits : BitVec 64) : Option F64 :=
  let sign := bits.extractLsb' 63 1
  let exponent := (bits.extractLsb' 52 11).toNat
  let fraction := (bits.extractLsb' 0 52).toNat
  if exponent = 2047 then none
  else if sign = 1#1 ∧ ¬ (exponent = 0 ∧ fraction = 0) then none
  else if exponent = 0 then some ⟨fraction⟩
  else some ⟨(2 ^ 52 + fraction) * 2 ^ (exponent - 1)⟩

end Sys2Proof.Machine
end

