-- ==== Sys2Proof/Machine/State.lean ====
section
/-!
DEFINITION. The state of the block as plain data: everything 10_state.md R10 to R25 names, and the model's own
fields that a frame in progress and the host's side of the interface need. INVENTORY.md lists each field with its rule and reset value.
-/

namespace Sys2Proof.Machine

/-- `MEM` (R25, R46): the bytes that differ from what an unlisted address reads as, by rising address.
The form is `Memory.wf` in Machine/Memory.lean. -/
abbrev Memory := List Host.Cell

/-- `FB` (R17): 32 rows of 64 pixels; `fb[y][x]` is the pixel in row `y` and column `x`. -/
abbrev Framebuffer := Vector (Vector Bool 64) 32

/-- An event of `Q_CPU` (R176). `Q_SOUND` and `Q_TIMER` only hold `Tick` events, so they are lists of tick counts. -/
inductive Event where
  /-- `Tick(n)`. -/
  | tick (n : Nat)
  /-- `Input(key, pressed)`. -/
  | input (key : Fin 16) (pressed : Bool)
deriving DecidableEq, Repr

/-- A notification in `Q_HOST` (R22, R186). -/
inductive Notification where
  | videoChanged
  | audio (on : Bool)
deriving DecidableEq, Repr

/-- The fault record of 60_exceptions.md R200, kept in `STATUS` (R208). NO step answers `Outcome.fault`: raising a fault is the entry that
R206 describes, a next state with `STATUS = Faulted(f)`. Assumption 1. -/
inductive Fault where
  /-- The CPU cycle, on a word with no mapped opcode, and `sys` (R201). Safe: the spec names the fault. -/
  | fatalDecode (w pc : Word)
  /-- `ret` with `SP = 0` (R202). Safe: the spec names the fault. -/
  | stackUnderflow (pc : Word)
  /-- A fetch, `draw`, `bcd`, `save` or `load` that touches an address of 4096 or more; `n` bytes at `a` (R203). Safe: the
  spec names the fault. -/
  | outOfBounds (a n : Nat)
  /-- `sifkeq` or `sifkne` with `Vx > 15` (R204). Safe: the spec names the fault. -/
  | invariantViolation (pc : Word)
  /-- `call` with `SP = STACK_DEPTH` (R205). Safe: the spec names the fault. -/
  | stackOverflow (pc : Word)
deriving DecidableEq, Repr

/-- Why a step has no next state. No instruction of the machine refuses. -/
inductive Refusal where
  /-- An arm of `exec` whose instruction has no meaning yet. No arm raises it. Safe. -/
  | notModelled (mnemonic : String)
  /-- `run` or `set_key` would enqueue to a full event queue, for which the source has no behaviour
  (R177, 93_implementation_defined.md U8: refuse). Safe. -/
  | queueFull (c : Ctrl)
  /-- A negative, infinite or NaN bias (R192, U13: refuse). Safe. -/
  | badBias (c : Ctrl)
deriving DecidableEq, Repr

/-- `STATUS` (R23). -/
inductive Status where
  | uninitialized
  | running
  | faulted (f : Fault)
deriving DecidableEq, Repr

/-- Where the block is in a frame (R182). The model's own. Phase 1 is part of the step that performs `run`, phase 3 is the
step that leaves `dispatch`. -/
inductive Phase where
  /-- No frame in progress: the host moves (R193). -/
  | idle
  /-- Phase 2: the controllers move (R182, R183). -/
  | dispatch
deriving DecidableEq, Repr

/-- Why a host operation answers `HostIO` (R207); the source's message is this cause. Assumption 16. -/
inductive HostIOCause where
  /-- The loader cannot supply the image (R232). -/
  | imageUnavailable
  /-- The image is longer than `PROG_MAX` (R232). -/
  | imageTooLong
  /-- The dump could not be written (R191). -/
  | dumpFailed
deriving DecidableEq, Repr

/-- The result of a host operation (R188 to R191, R206, R207). -/
inductive Response where
  | ok
  | notInitialized
  | hostIO (cause : HostIOCause)
  | invalidKey (key : Nat)
  /-- `run` returns the fault (R206, R189). -/
  | fault (f : Fault)
  /-- The 4096 bytes of `dump_memory`, in address order (R191). -/
  | image (bytes : List Byte)
deriving DecidableEq, Repr

/-- A callback made in phase 3 (R187). -/
inductive Delivery where
  /-- The framebuffer as row-major Booleans (R17, R187). -/
  | video (pixels : List Bool)
  | audio (on : Bool)
deriving DecidableEq, Repr

/-- The machine. -/
structure State where
  /-- `V[0]` .. `V[15]`; `VF` is `V[15]` (R10, R11). -/
  v : Vector Byte 16
  /-- `PC` (R12). -/
  pc : Word
  /-- `I` (R13). -/
  i : Word
  /-- `STACK[0 .. 15]` (R14). Entries at `SP` and above are kept; assumption 12. -/
  stack : Vector Word 16
  /-- `SP` (R14). -/
  sp : Fin 17
  /-- `KEYPAD` (R15). -/
  keypad : Word
  /-- `HALT` (R16). -/
  halt : Bool
  /-- `WAKE` (R16). -/
  wake : Option (Fin 16)
  /-- `FB` (R17). -/
  fb : Framebuffer
  /-- `DT` (R18). -/
  dt : Byte
  /-- `ST` (R19). -/
  st : Byte
  /-- `ST_FLAG` (R19). -/
  stFlag : Bool
  /-- `MEM` (R25). -/
  mem : Memory
  /-- `ACC_CPU` (R20). -/
  accCpu : F64
  /-- `ACC_SOUND` (R20). -/
  accSound : F64
  /-- `ACC_TIMER` (R20). -/
  accTimer : F64
  /-- `Q_CPU`, first to leave first (R21, R177). -/
  qCpu : List Event
  /-- `Q_SOUND`: the counts of its `Tick` events (R21, R177). -/
  qSound : List Nat
  /-- `Q_TIMER`: the counts of its `Tick` events (R21, R177). -/
  qTimer : List Nat
  /-- `Q_HOST`, first to leave first (R22). -/
  qHost : List Notification
  /-- `STATUS` (R23). -/
  status : Status
  /-- `BIAS_CPU` (R24). -/
  biasCpu : F64
  /-- `BIAS_SOUND` (R24). -/
  biasSound : F64
  /-- `BIAS_TIMER` (R24). -/
  biasTimer : F64
  /-- `DISPATCH_MODE` (R24). -/
  dispatchMode : DispatchMode
  /-- A video callback is attached (R24). -/
  videoAttached : Bool
  /-- An audio callback is attached (R24). -/
  audioAttached : Bool
  /-- The model's own: where in a frame the block is (R182). -/
  phase : Phase
  /-- The model's own: iterations of the CPU's dequeued `Tick(n)` still to perform (R180). Assumption 15. -/
  leftCpu : Nat
  /-- The model's own: the same for Sound. -/
  leftSound : Nat
  /-- The model's own: the same for Timer. -/
  leftTimer : Nat
  /-- The model's own: host operations issued and not yet performed (R26, R193). -/
  pending : List HostOp
  /-- The model's own: the result of the last host operation; `none` while its frame is in progress. Assumption 14. -/
  response : Option Response
  /-- The model's own: the callbacks of the last host operation (R187). Assumption 14. -/
  delivered : List Delivery
  /-- The model's own: how many free values have been taken (R26). -/
  draws : Nat
deriving DecidableEq, Repr

/-- The machine right after a successful `reset` with an empty image and the default font (R28, R231, R232, R233).
The configuration, which `reset` leaves as it is, has the values of assumption 11. -/
def State.reset : State where
  v := Vector.replicate 16 0
  pc := 0x0200
  i := 0
  stack := Vector.replicate 16 0
  sp := 0
  keypad := 0
  halt := false
  wake := none
  fb := Vector.replicate 32 (Vector.replicate 64 false)
  dt := 0
  st := 0
  stFlag := false
  mem := []
  accCpu := F64.zero
  accSound := F64.zero
  accTimer := F64.zero
  qCpu := []
  qSound := []
  qTimer := []
  qHost := []
  status := .running
  biasCpu := F64.one
  biasSound := F64.one
  biasTimer := F64.one
  dispatchMode := .sequential
  videoAttached := false
  audioAttached := false
  phase := .idle
  leftCpu := 0
  leftSound := 0
  leftTimer := 0
  pending := []
  response := some .ok
  delivered := []
  draws := 0

/-- The answer of a meaning, of an agent's step and of `step`. -/
abbrev Answer := Host.Outcome State Fault Refusal

end Sys2Proof.Machine
end

