-- ==== Sys2Proof/Machine/Memory.lean ====
section
/-!
DEFINITION. `MEM` and its accesses (20_memory.md R46 to R56, R62): one flat space of 4096 bytes, byte access, big-endian 16-bit access,
slices. Every access that touches an address of 4096 or more is `OutOfBounds(a, n)` and does nothing (R53).
-/

namespace Sys2Proof.Machine

/-- The default `FONT_TABLE`, glyph by glyph (70_reset_and_hazards.md R233). -/
def defaultGlyphs : List (List Byte) :=
  [[0xF0, 0x90, 0x90, 0x90, 0xF0], [0x20, 0x60, 0x20, 0x20, 0x70],
   [0xF0, 0x10, 0xF0, 0x80, 0xF0], [0xF0, 0x10, 0xF0, 0x10, 0xF0],
   [0x90, 0x90, 0xF0, 0x10, 0x10], [0xF0, 0x80, 0xF0, 0x10, 0xF0],
   [0xF0, 0x80, 0xF0, 0x90, 0xF0], [0xF0, 0x10, 0x20, 0x40, 0x40]] ++
  [[0xF0, 0x90, 0xF0, 0x90, 0xF0], [0xF0, 0x90, 0xF0, 0x10, 0xF0],
   [0xF0, 0x90, 0xF0, 0x90, 0x90], [0xE0, 0x90, 0xE0, 0x90, 0xE0],
   [0xF0, 0x80, 0x80, 0x80, 0xF0], [0xE0, 0x90, 0x90, 0x90, 0xE0],
   [0xF0, 0x80, 0xF0, 0x80, 0xF0], [0xF0, 0x80, 0xF0, 0x80, 0x80]]

/-- Row `r` of glyph `d` of the default font stands at `5*d + r` (R55, R233). -/
def defaultFontByte (a : Nat) : Byte := (defaultGlyphs.getD (a / 5) []).getD (a % 5) 0

/-- What an unlisted address reads as: its contents after `reset` with an empty image and the default font (R28, R55).
Assumption 10. -/
def bootByte (a : Nat) : Byte := if a < 80 then defaultFontByte a else 0

/-- The byte a memory holds at an address. -/
def Memory.get : Memory → Nat → Byte
  | [], a => bootByte a
  | (b, v) :: rest, a => if a = b then v else Memory.get rest a

/-- The memory with one byte replaced, in canonical form: a byte equal to what an unlisted address reads as is not listed. -/
def Memory.set : Memory → Nat → Byte → Memory
  | [], a, v => if v = bootByte a then [] else [(a, v)]
  | (b, w) :: rest, a, v =>
    if a < b then (if v = bootByte a then (b, w) :: rest else (a, v) :: (b, w) :: rest)
    else if a = b then (if v = bootByte a then rest else (a, v) :: rest)
    else (b, w) :: Memory.set rest a v

/-- The canonical form: addresses strictly rising and inside `MEM`, no listed byte equal to what its address reads as unlisted. -/
abbrev Memory.wf (m : Memory) : Prop :=
  m.Pairwise (fun c d => c.1 < d.1) ∧ ∀ c ∈ m, c.1 < Config.memSize ∧ c.2 ≠ bootByte c.1

/-- An access of `n` bytes at `a` touches only addresses of `MEM` (R53). -/
def inRange (a n : Nat) : Bool := decide (a + n ≤ Config.memSize)

/-- `MemRead(a, 1)` (R48). -/
def Memory.read8 (m : Memory) (a : Nat) : Except Fault Byte :=
  if inRange a 1 then .ok (Memory.get m a) else .error (.outOfBounds a 1)

/-- `MemWrite(a, 1, v)` (R48). -/
def Memory.write8 (m : Memory) (a : Nat) (v : Byte) : Except Fault Memory :=
  if inRange a 1 then .ok (Memory.set m a v) else .error (.outOfBounds a 1)

/-- `MemRead(a, 2)`: the byte at the lower address is the high byte (R49). -/
def Memory.read16 (m : Memory) (a : Nat) : Except Fault Word :=
  if inRange a 2 then .ok (wordOfBytes (Memory.get m a) (Memory.get m (a + 1))) else .error (.outOfBounds a 2)

/-- `MemWrite(a, 2, v)` (R50). -/
def Memory.write16 (m : Memory) (a : Nat) (v : Word) : Except Fault Memory :=
  if inRange a 2 then .ok (Memory.set (Memory.set m a (highByte v)) (a + 1) (lowByte v))
  else .error (.outOfBounds a 2)

/-- The bytes at `a`, `a + 1`, ... replaced, in that order. -/
def Memory.setAll : Memory → Nat → List Byte → Memory
  | m, _, [] => m
  | m, a, b :: bs => Memory.setAll (Memory.set m a b) (a + 1) bs

/-- `read_slice` on bytes: `count` bytes in ascending order; out of range when `a + count > 4096`, also for no bytes (R54).
The record of the fault is assumption 23. -/
def Memory.readSlice (m : Memory) (a count : Nat) : Except Fault (List Byte) :=
  if inRange a count then .ok ((List.range count).map fun k => Memory.get m (a + k)) else .error (.outOfBounds a count)

/-- `write_slice` on bytes: in ascending order; out of range, and nothing written, when `a` plus the number of bytes is above 4096, also
for no bytes (R53, R54). The record of the fault is assumption 23. -/
def Memory.writeSlice (m : Memory) (a : Nat) (bs : List Byte) : Except Fault Memory :=
  if inRange a bs.length then .ok (Memory.setAll m a bs) else .error (.outOfBounds a bs.length)

/-- `MEM` after a successful `reset`: zero, then the font at 0x000, then the image at 0x200 (R231). -/
def Memory.load (font image : List Byte) : Except Fault Memory :=
  match Memory.writeSlice [] 0 font with
  | .error f => .error f
  | .ok m => Memory.writeSlice m Config.progBase image

end Sys2Proof.Machine
end

