-- ==== Sys2Proof/Machine/Ops.lean ====
section
/-!
DEFINITION. The named operations over the registers and the rest of State: one accessor and one update per piece of state that
a meaning touches, the skip, the pc of the running instruction, the synchronised write of `ST`, and RAISING A FAULT, which
is the machine's one form of exception (60_exceptions.md R206). There is no return from it but `reset` (R212).
-/

namespace Sys2Proof.Machine

/-- `V[x]` (R7, R10). -/
def State.reg (s : State) (x : Nibble) : Byte := s.v.get x.toFin

/-- `V[x] <- b` (R7, R10). -/
def State.setReg (s : State) (x : Nibble) (b : Byte) : State := { s with v := s.v.set x.toNat b x.isLt }

/-- `PC <- p` (R7, R12). -/
def State.setPc (s : State) (p : Word) : State := { s with pc := p }

/-- `I <- a` (R13). -/
def State.setI (s : State) (a : Word) : State := { s with i := a }

/-- `MEM` replaced (R25). -/
def State.setMem (s : State) (m : Memory) : State := { s with mem := m }

/-- `FB` replaced (R17). -/
def State.setFb (s : State) (fb : Framebuffer) : State := { s with fb := fb }

/-- `DT <- b` (R18). -/
def State.setDt (s : State) (b : Byte) : State := { s with dt := b }

/-- `HALT <- h` (R16). -/
def State.setHalt (s : State) (h : Bool) : State := { s with halt := h }

/-- `WAKE <- w` (R16). -/
def State.setWake (s : State) (w : Option (Fin 16)) : State := { s with wake := w }

/-- `KEYPAD <- k` (R15). -/
def State.setKeypad (s : State) (k : Word) : State := { s with keypad := k }

/-- `push_host(e)`: append at the tail of `Q_HOST` (R186). -/
def State.pushHost (s : State) (e : Notification) : State := { s with qHost := s.qHost ++ [e] }

/-- One free value more has been taken (R26). -/
def State.countDraw (s : State) : State := { s with draws := s.draws + 1 }

/-- `STATUS <- st` (R23). -/
def State.setStatus (s : State) (st : Status) : State := { s with status := st }

/-- Has `ST` crossed the zero/non-zero boundary: exactly one of old and new value is zero (R218). -/
def crossesZero (old new : Byte) : Bool := (old == 0) != (new == 0)

/-- `sync_write_ST(b)`: the flag is a latch, set by a crossing write and left alone by any other (R218, 90_conflicts.md C1). -/
def State.syncWriteSt (s : State) (b : Byte) : State :=
  { s with st := b, stFlag := s.stFlag || crossesZero s.st b }

/-- The state half of `read_clear_ST_FLAG()` (R219); the value read is `s.stFlag`. -/
def State.clearStFlag (s : State) : State := { s with stFlag := false }

/-- `STACK[SP] <- p; SP <- SP + 1`, when the stack is not full (R104); `none` when it is. -/
def State.push (s : State) (p : Word) : Option State :=
  if h : s.sp.val < Config.stackDepth then
    some { s with stack := s.stack.set s.sp.val p h, sp := ⟨s.sp.val + 1, Nat.succ_lt_succ h⟩ }
  else none

/-- `SP <- SP - 1`, and the entry `STACK[SP]`, when the stack is not empty (R102); `none` when it is. -/
def State.pop (s : State) : Option (Word × State) :=
  match s.sp with
  | ⟨0, _⟩ => none
  | ⟨k + 1, h⟩ => some (s.stack[k]'(Nat.lt_of_succ_lt_succ h), { s with sp := ⟨k, Nat.lt_of_succ_lt h⟩ })

/-- `skip`: past one more instruction, unseen (R93). -/
def State.skip (s : State) : State := s.setPc (s.pc + 2)

/-- A skip instruction: `skip` when the condition holds, nothing when it does not (R93). -/
def State.skipIf (s : State) (cond : Bool) : State := if cond then s.skip else s

/-- `pc_fetch`: the address of the running instruction, two below the post-fetch `PC` (R92, R101). -/
def State.pcFetch (s : State) : Word := s.pc - 2

/-- RAISING A FAULT (R206): the step ends here and `STATUS` records the fault; nothing is saved, no mode changes and
control goes nowhere; what the step wrote before stands (R98). Assumption 1. -/
def raise (f : Fault) (s : State) : Answer := .next (s.setStatus (.faulted f))

/-- The instruction fetch: one 16-bit read at `PC` (R90, R95). -/
def State.fetch (s : State) : Except Fault Word := Memory.read16 s.mem s.pc.toNat

end Sys2Proof.Machine
end

