-- ==== Sys2Proof/Machine/Clock.lean ====
section
/-!
DEFINITION. The clock accumulators (46_clock_and_events.md R170 to R175): `produce`, `consume_whole`, the effective rates. Nothing the
CPU can reach reads or writes them (R20).
-/

namespace Sys2Proof.Machine

/-- The nominal rates in ticks per second (R5, R173). -/
def baseRate : Ctrl → Nat
  | .cpu => 500
  | .sound => 60
  | .timer => 60

/-- `BIAS_c` (R24). -/
def State.bias (s : State) : Ctrl → F64
  | .cpu => s.biasCpu
  | .sound => s.biasSound
  | .timer => s.biasTimer

/-- `BIAS_c <- b` (R192). -/
def State.setBias (s : State) (c : Ctrl) (b : F64) : State :=
  match c with
  | .cpu => { s with biasCpu := b }
  | .sound => { s with biasSound := b }
  | .timer => { s with biasTimer := b }

/-- `ACC_c` (R20). -/
def State.acc (s : State) : Ctrl → F64
  | .cpu => s.accCpu
  | .sound => s.accSound
  | .timer => s.accTimer

/-- `ACC_c <- a` (R171, R172). -/
def State.setAcc (s : State) (c : Ctrl) (a : F64) : State :=
  match c with
  | .cpu => { s with accCpu := a }
  | .sound => { s with accSound := a }
  | .timer => { s with accTimer := a }

/-- `effective_rate_c = base_c * BIAS_c`, rounded (R173). -/
def effectiveRate (c : Ctrl) (bias : F64) : F64 := F64.mul (F64.ofNat (baseRate c)) bias

/-- `elapsed_us / 1_000_000 * effective_rate`: converted, divided, multiplied, each rounded, in that order (R171). -/
def tickAmount (micros : Nat) (rate : F64) : F64 := F64.mul (F64.divNat (F64.ofNat micros) 1000000) rate

/-- `produce`: the accumulator after the ticks of the elapsed time are added, rounded once more (R171). -/
def produce (acc : F64) (micros : Nat) (rate : F64) : F64 := F64.add acc (tickAmount micros rate)

/-- `consume_whole`: the whole ticks, and the accumulator with the remainder (R172). -/
def consumeWhole (acc : F64) : Nat × F64 := (F64.floor acc, F64.fract acc)

/-- What a frame of `micros` microseconds gives controller `c`: its whole ticks and its new accumulator (R178). -/
def ticksFor (s : State) (c : Ctrl) (micros : Nat) : Nat × F64 :=
  consumeWhole (produce (s.acc c) micros (effectiveRate c (s.bias c)))

end Sys2Proof.Machine
end

