-- ==== Sys2Proof/Machine/Controllers.lean ====
section
/-!
DEFINITION. The controllers (46_clock_and_events.md R176 to R181, 60_exceptions.md R215 to R219): their queues, the `Input` event, the ticks of the
two counters, and which controller moves next (R183, R222). The CPU's own cycle is in Machine/Cycle.lean.
-/

namespace Sys2Proof.Machine

/-- The number of events in `Q_c` (R21). -/
def State.queueLength (s : State) : Ctrl → Nat
  | .cpu => s.qCpu.length
  | .sound => s.qSound.length
  | .timer => s.qTimer.length

/-- Iterations of the `Tick` event that controller `c` has dequeued and not yet performed (R180). -/
def State.left (s : State) : Ctrl → Nat
  | .cpu => s.leftCpu
  | .sound => s.leftSound
  | .timer => s.leftTimer

/-- Set those iterations. -/
def State.setLeft (s : State) (c : Ctrl) (n : Nat) : State :=
  match c with
  | .cpu => { s with leftCpu := n }
  | .sound => { s with leftSound := n }
  | .timer => { s with leftTimer := n }

/-- `Q_c` is full (R177). -/
def State.queueFull (s : State) (c : Ctrl) : Bool := decide (Config.queueCap ≤ s.queueLength c)

/-- `enqueue(Q_c, Tick(n))` (R178). -/
def State.enqueueTick (s : State) (c : Ctrl) (n : Nat) : State :=
  match c with
  | .cpu => { s with qCpu := s.qCpu ++ [.tick n] }
  | .sound => { s with qSound := s.qSound ++ [n] }
  | .timer => { s with qTimer := s.qTimer ++ [n] }

/-- `generate_tick_event(c, elapsed_us)` (R178): always one `Tick`, also of 0. -/
def generateTickEvent (s : State) (c : Ctrl) (micros : Nat) : State :=
  (s.setAcc c (ticksFor s c micros).2).enqueueTick c (ticksFor s c micros).1

/-- `step(CPU, Input(key, pressed))` (R165, R181). -/
def inputEvent (key : Fin 16) (pressed : Bool) (s : State) : State :=
  let s1 := s.setKeypad (writeField s.keypad key.val 1 (if pressed then 1 else 0))
  if s.halt && pressed then (s1.setHalt false).setWake (some key) else s1

/-- `timer_tick()` (R216): stops at 0. -/
def timerTick (s : State) : State := if s.dt = 0 then s else s.setDt (s.dt - 1)

/-- The decrement of `sound_tick()`, through the synchronised write (R217, R218). -/
def soundDecrement (s : State) : State := if s.st = 0 then s else s.syncWriteSt (s.st - 1)

/-- `sound_tick()` (R217): decrement, read and clear the flag, notify if it was set. -/
def soundTick (s : State) : State :=
  let s1 := soundDecrement s
  if s1.stFlag then s1.clearStFlag.pushHost (.audio (s1.st != 0)) else s1.clearStFlag

/-- After a fault no controller steps again (R212); in concurrent dispatch the others still finish their work of the frame (R206). Assumption 2. -/
def State.aborted (s : State) : Bool :=
  match s.status, s.dispatchMode with
  | .faulted _, .sequential => true
  | _, _ => false

/-- Controller `c` has something left to do in phase 2: iterations of a `Tick`, or events (R179); the CPU only while no fault
has been raised (R206), the others unless the fault has ended the frame (R212). -/
def State.hasWork (s : State) (c : Ctrl) : Bool :=
  match c with
  | .cpu => decide (s.status = .running) && (s.left .cpu != 0 || s.queueLength .cpu != 0)
  | .sound => !s.aborted && (s.left .sound != 0 || s.queueLength .sound != 0)
  | .timer => !s.aborted && (s.left .timer != 0 || s.queueLength .timer != 0)

/-- The controllers with work, in the order of sequential dispatch (R183). -/
def State.runnable (s : State) : List Ctrl := [Ctrl.cpu, Ctrl.sound, Ctrl.timer].filter s.hasWork

/-- Who moves next in phase 2, and the state after the choice: the first with work in sequential dispatch, any with work in
concurrent dispatch (R183, R222); `none` when all three have returned. Assumption 6. -/
def pickController (s : State) : Option (Ctrl × State) :=
  match s.dispatchMode, s.runnable with
  | _, [] => none
  | .sequential, c :: _ => some (c, s)
  | .concurrent, c :: cs =>
    some ((c :: cs).getD (Config.schedule s.draws % (c :: cs).length) c, s.countDraw)

end Sys2Proof.Machine
end

