-- ==== Sys2Proof/Machine/Flags.lean ====
section
/-!
DEFINITION. The values written to `VF` (10_state.md R11, 42_alu.md R127 to R131, 44_display.md R152), each the byte 0x00 or 0x01 (R120).
There is no flag register: who writes `VF`, and in which order, is the meanings' own (R134).
-/

namespace Sys2Proof.Machine

/-- A flag as the byte stored in `VF` (R120). -/
def flagByte (b : Bool) : Byte := if b then 1 else 0

/-- Carry of `a + b`: the unbounded sum exceeds 255 (R127). -/
def carryOf (a b : Byte) : Bool := decide (a.toNat + b.toNat > 255)

/-- No borrow in `a - b` (R128, R130). -/
def noBorrowOf (a b : Byte) : Bool := decide (b.toNat ≤ a.toNat)

/-- The bit that a shift right by one moves out (R129). -/
def lowBitOf (a : Byte) : Bool := a.getLsbD 0

/-- The bit that a shift left by one moves out (R131). -/
def highBitOf (a : Byte) : Bool := a.getLsbD 7

/-- A pixel collides when it is set and its sprite bit is set (R152). -/
def collides (pixel spriteBit : Bool) : Bool := pixel && spriteBit

end Sys2Proof.Machine
end

