-- ==== Sys2Proof/Machine/Operands.lean ====
section
/-!
DEFINITION. The operand forms (30_encoding.md R73, 43_index_memory.md R140, 41_flow.md R103 to R105): register operands
are `State.reg`; what stands here is the zero extensions, the effective addresses and the register range of `save` and `load`.
-/

namespace Sys2Proof.Machine

/-- `zext_16(nnn)` (R73, R103). -/
def zextAddr (nnn : Addr) : Word := nnn.setWidth 16

/-- `zext_16` of a byte (R105, R142, R143). -/
def zextByte (b : Byte) : Word := b.setWidth 16

/-- The effective address `I + k`: an unbounded natural, not reduced (R140). -/
def effAddr (s : State) (k : Nat) : Nat := s.i.toNat + k

/-- The registers from 0 to `x` inclusive, ascending: the range of `save` and `load` (R145, R146). -/
def regsUpTo (x : Nibble) : List Nibble := (List.range (x.toNat + 1)).map (BitVec.ofNat 4)

end Sys2Proof.Machine
end

