-- ==== Sys2Proof/Machine/Alu.lean ====
section
/-!
DEFINITION. Moves, arithmetic, logic, shifts and the random byte (42_alu.md). `PC` stays the post-fetch PC and none of them can
fault. The flag writers read their operands, write `VF`, then write `Vx` (R120, R134): with `x = 15` the result stays.
-/

namespace Sys2Proof.Machine

/-- The shared shape of the five flag writers: flag first, result second (R134, decisions D8, D9). -/
def flagThenResult (s : State) (x : Nibble) (flag : Bool) (result : Byte) : State :=
  (s.setReg 15 (flagByte flag)).setReg x result

/-- `movi` (R121). -/
def execMovi (x : Nibble) (kk : Byte) (s : State) : Answer := .next (s.setReg x kk)

/-- `addi` (R122): no flag. -/
def execAddi (x : Nibble) (kk : Byte) (s : State) : Answer := .next (s.setReg x (s.reg x + kk))

/-- `mov` (R123). -/
def execMov (x y : Nibble) (s : State) : Answer := .next (s.setReg x (s.reg y))

/-- `or` (R124): no flag. -/
def execOr (x y : Nibble) (s : State) : Answer := .next (s.setReg x (s.reg x ||| s.reg y))

/-- `and` (R125): no flag. -/
def execAnd (x y : Nibble) (s : State) : Answer := .next (s.setReg x (s.reg x &&& s.reg y))

/-- `xor` (R126): no flag. -/
def execXor (x y : Nibble) (s : State) : Answer := .next (s.setReg x (s.reg x ^^^ s.reg y))

/-- `add` (R127): `VF` is the carry. -/
def execAdd (x y : Nibble) (s : State) : Answer :=
  .next (flagThenResult s x (carryOf (s.reg x) (s.reg y)) (s.reg x + s.reg y))

/-- `sub` (R128): `VF` is the no-borrow of `Vx - Vy`. -/
def execSub (x y : Nibble) (s : State) : Answer :=
  .next (flagThenResult s x (noBorrowOf (s.reg x) (s.reg y)) (s.reg x - s.reg y))

/-- `shr1` (R129): `Vx` alone, `y` plays no part (R77). -/
def execShr1 (x _y : Nibble) (s : State) : Answer :=
  .next (flagThenResult s x (lowBitOf (s.reg x)) (s.reg x >>> 1))

/-- `rsub` (R130): `VF` is the no-borrow of `Vy - Vx`. -/
def execRsub (x y : Nibble) (s : State) : Answer :=
  .next (flagThenResult s x (noBorrowOf (s.reg y) (s.reg x)) (s.reg y - s.reg x))

/-- `shl1` (R131): `Vx` alone, `VF` is 0 or 1 (90_conflicts.md C6). -/
def execShl1 (x _y : Nibble) (s : State) : Answer :=
  .next (flagThenResult s x (highBitOf (s.reg x)) (s.reg x <<< 1))

/-- `rand` (R133): a fresh free byte ANDed with the immediate (R132). Assumption 4. -/
def execRand (x : Nibble) (kk : Byte) (s : State) : Answer :=
  .next ((s.setReg x (Config.draw8 s.draws &&& kk)).countDraw)

end Sys2Proof.Machine
end

