-- ==== Sys2Proof/Machine/Display.lean ====
section
/-!
DEFINITION. The display (44_display.md): `cls` and the XOR-blit `draw` with its collision, its wrap at the edges and its
notification.
-/

namespace Sys2Proof.Machine

/-- A column, wrapped (R153, R154 (1)). -/
def wrapX (x : Nat) : Fin 64 := ⟨x % Config.fbW, Nat.mod_lt _ (by decide)⟩

/-- A row, wrapped (R153, R154 (1)). -/
def wrapY (y : Nat) : Fin 32 := ⟨y % Config.fbH, Nat.mod_lt _ (by decide)⟩

/-- `FB[py][px]` (R150). -/
def Framebuffer.pixel (fb : Framebuffer) (py : Fin 32) (px : Fin 64) : Bool := (fb.get py).get px

/-- `FB[py][px] <- b`. -/
def Framebuffer.setPixel (fb : Framebuffer) (py : Fin 32) (px : Fin 64) (b : Bool) : Framebuffer :=
  fb.set py.val ((fb.get py).set px.val b px.isLt) py.isLt

/-- The sprite bit of a column: bit 7 is the leftmost (R150), read as the bitfield (7 - col, 1) (R45). -/
def spriteBit (b : Byte) (col : Nat) : Bool := readField b (7 - col) 1 == 1

/-- A framebuffer being drawn on, and whether a collision has occurred so far. -/
structure Blit where
  fb : Framebuffer
  hit : Bool
deriving DecidableEq, Repr

/-- One pixel of a sprite row (R153). -/
def blitPixel (x y : Nat) (b : Byte) (p : Blit) (col : Nat) : Blit :=
  if spriteBit b col then
    let old := Framebuffer.pixel p.fb (wrapY y) (wrapX (x + col))
    { fb := Framebuffer.setPixel p.fb (wrapY y) (wrapX (x + col)) (old ^^ true)
      hit := p.hit || collides old (spriteBit b col) }
  else p

/-- One sprite row: columns 0 to 7, ascending (R153). -/
def blitRow (x y : Nat) (b : Byte) (p : Blit) : Blit := [0, 1, 2, 3, 4, 5, 6, 7].foldl (blitPixel x y b) p

/-- The rows still to draw, from row `row` on: the byte of row `row` is at `a + row` (R153). The fault, if any, is that of the first
row whose byte is out of range; the rows before it are drawn. -/
def blitRows (m : Memory) (a x y : Nat) : (left row : Nat) → Blit → Blit × Option Fault
  | 0, _, p => (p, none)
  | left + 1, row, p =>
    match Memory.read8 m (a + row) with
    | .error f => (p, some f)
    | .ok b => blitRows m a x y left (row + 1) (blitRow x (y + row) b p)

/-- `cls` (R151): no flag, no notification. -/
def execCls (s : State) : Answer := .next (s.setFb (Vector.replicate 32 (Vector.replicate 64 false)))

/-- `draw` (R153, R155): the coordinates are read before `VF` is written (decision D8); `VF` ends as the collision flag;
`VideoChanged` is pushed unless a row faults. -/
def execDraw (x y n : Nibble) (s : State) : Answer :=
  match blitRows s.mem (effAddr s 0) (s.reg x).toNat (s.reg y).toNat n.toNat 0 ⟨s.fb, false⟩ with
  | (p, some f) => raise f ((s.setFb p.fb).setReg 15 (flagByte p.hit))
  | (p, none) => .next (((s.setFb p.fb).setReg 15 (flagByte p.hit)).pushHost .videoChanged)

end Sys2Proof.Machine
end

