-- ==== Sys2Proof/Machine/Flow.lean ====
section
/-!
DEFINITION. Control flow (41_flow.md): `sys`, `ret`, `jump`, `call`, `jumpv0`, `sifeqi`, `sifnei`, `sifeq`, `sifne`.
On entry `PC` is the post-fetch PC (R92, R100).
-/

namespace Sys2Proof.Machine

/-- `sys` (R101): `FatalDecode` with the word itself and its address. -/
def execSys (nnn : Addr) (s : State) : Answer := raise (.fatalDecode (encode (.sys nnn)) s.pcFetch) s

/-- `ret` (R102). -/
def execRet (s : State) : Answer :=
  match s.pop with
  | none => raise (.stackUnderflow s.pcFetch) s
  | some (p, s') => .next (s'.setPc p)

/-- `jump` (R103). -/
def execJump (nnn : Addr) (s : State) : Answer := .next (s.setPc (zextAddr nnn))

/-- `call` (R104): the post-fetch PC is pushed. -/
def execCall (nnn : Addr) (s : State) : Answer :=
  match s.push s.pc with
  | none => raise (.stackOverflow s.pcFetch) s
  | some s' => .next (s'.setPc (zextAddr nnn))

/-- `jumpv0` (R105): the offset register is always `V[0]`, the sum is not cut to 12 bits. -/
def execJumpv0 (nnn : Addr) (s : State) : Answer := .next (s.setPc (zextAddr nnn + zextByte (s.reg 0)))

/-- `sifeqi` (R106). -/
def execSifeqi (x : Nibble) (kk : Byte) (s : State) : Answer := .next (s.skipIf (s.reg x == kk))

/-- `sifnei` (R107). -/
def execSifnei (x : Nibble) (kk : Byte) (s : State) : Answer := .next (s.skipIf (s.reg x != kk))

/-- `sifeq` (R108): the low nibble plays no part (R77). -/
def execSifeq (x y _n : Nibble) (s : State) : Answer := .next (s.skipIf (s.reg x == s.reg y))

/-- `sifne` (R109). -/
def execSifne (x y : Nibble) (s : State) : Answer := .next (s.skipIf (s.reg x != s.reg y))

end Sys2Proof.Machine
end

