-- ==== Sys2Proof/Machine/Index.lean ====
section
/-!
DEFINITION. The index register and memory (43_index_memory.md): `movidx`, `addidx`, `font`, `bcd`, `save`, `load`. A data access at 4096 or
more raises `OutOfBounds` there, and what the instruction did before stands (R140, R98).
-/

namespace Sys2Proof.Machine

/-- `movidx` (R141). -/
def execMovidx (nnn : Addr) (s : State) : Answer := .next (s.setI (zextAddr nnn))

/-- `addidx` (R142): modulo 65536, no flag. -/
def execAddidx (x : Nibble) (s : State) : Answer := .next (s.setI (s.i + zextByte (s.reg x)))

/-- `font` (R143): five bytes a glyph, `Vx` not masked. -/
def execFont (x : Nibble) (s : State) : Answer := .next (s.setI (5 * zextByte (s.reg x)))

/-- The decimal digits of a byte: hundreds, tens, ones (R144). -/
def bcdDigits (b : Byte) : List Byte :=
  [BitVec.ofNat 8 (b.toNat / 100), BitVec.ofNat 8 (b.toNat / 10 % 10), BitVec.ofNat 8 (b.toNat % 10)]

/-- Byte writes at `a`, `a + 1`, ..., ending in a fault at the first that is out of range (R140). -/
def storeBytes : List Byte → Nat → State → Answer
  | [], _, s => .next s
  | b :: bs, a, s =>
    match Memory.write8 s.mem a b with
    | .error f => raise f s
    | .ok m => storeBytes bs (a + 1) (s.setMem m)

/-- `bcd` (R144): three byte writes from `I`, which stays. -/
def execBcd (x : Nibble) (s : State) : Answer := storeBytes (bcdDigits (s.reg x)) (effAddr s 0) s

/-- The loop of `save`: each register in turn, `I` moving after each (R145). -/
def saveRegs : List Nibble → State → Answer
  | [], s => .next s
  | r :: rs, s =>
    match Memory.write8 s.mem (effAddr s 0) (s.reg r) with
    | .error f => raise f s
    | .ok m => saveRegs rs ((s.setMem m).setI (s.i + 1))

/-- `save` (R145). -/
def execSave (x : Nibble) (s : State) : Answer := saveRegs (regsUpTo x) s

/-- The loop of `load`: each register in turn, `I` moving after each (R146). -/
def loadRegs : List Nibble → State → Answer
  | [], s => .next s
  | r :: rs, s =>
    match Memory.read8 s.mem (effAddr s 0) with
    | .error f => raise f s
    | .ok b => loadRegs rs ((s.setReg r b).setI (s.i + 1))

/-- `load` (R146). -/
def execLoad (x : Nibble) (s : State) : Answer := loadRegs (regsUpTo x) s

end Sys2Proof.Machine
end

