-- ==== Sys2Proof/Machine/Keypad.lean ====
section
/-!
DEFINITION. The keypad, the blocking key read and the timers' instructions (45_keypad_timers.md): `sifkeq`, `sifkne`, `keyr`,
`timerr`, `timerw`, `soundw`.
-/

namespace Sys2Proof.Machine

/-- The key bit `KEYPAD[k]`, read as the bitfield (k, 1) (R160). -/
def keyPressed (keypad : Word) (k : Nat) : Bool := readField keypad k 1 == 1

/-- The shape of the two key skips: a `Vx` above 15 makes a descriptor that breaks its width (R42), which is
`InvariantViolation` (R161, R204). -/
def keySkip (x : Nibble) (wanted : Bool) (s : State) : Answer :=
  if fieldFits 16 (s.reg x).toNat 1 then .next (s.skipIf (keyPressed s.keypad (s.reg x).toNat == wanted))
  else raise (.invariantViolation s.pcFetch) s

/-- `sifkeq` (R161). -/
def execSifkeq (x : Nibble) (s : State) : Answer := keySkip x true s

/-- `sifkne` (R162). -/
def execSifkne (x : Nibble) (s : State) : Answer := keySkip x false s

/-- `keyr` (R164): no key recorded: halt and go back to this instruction; a key recorded: consume it. -/
def execKeyr (x : Nibble) (s : State) : Answer :=
  match s.wake with
  | none => .next ((s.setHalt true).setPc (s.pc - 2))
  | some k => .next ((s.setReg x (BitVec.ofNat 8 k.val)).setWake none)

/-- `timerr` (R166). -/
def execTimerr (x : Nibble) (s : State) : Answer := .next (s.setReg x s.dt)

/-- `timerw` (R167). -/
def execTimerw (x : Nibble) (s : State) : Answer := .next (s.setDt (s.reg x))

/-- `soundw` (R168): the synchronised write of `ST`. -/
def execSoundw (x : Nibble) (s : State) : Answer := .next (s.syncWriteSt (s.reg x))

end Sys2Proof.Machine
end

