-- ==== Sys2Proof/Machine/Dispatch.lean ====
section
/-!
DEFINITION. Dispatch (40_cpu_cycle.md R96): one arm per constructor of `Instr`, each one call of the instruction's meaning.
On entry `PC` is the post-fetch PC (R92).
-/

namespace Sys2Proof.Machine

def exec (i : Instr) (s : State) : Host.Outcome State Fault Refusal :=
  match i with
  | .sys nnn => Sys2Proof.Machine.execSys nnn s
  | .cls => Sys2Proof.Machine.execCls s
  | .ret => Sys2Proof.Machine.execRet s
  | .jump nnn => Sys2Proof.Machine.execJump nnn s
  | .call nnn => Sys2Proof.Machine.execCall nnn s
  | .sifeqi x kk => Sys2Proof.Machine.execSifeqi x kk s
  | .sifnei x kk => Sys2Proof.Machine.execSifnei x kk s
  | .sifeq x y n => Sys2Proof.Machine.execSifeq x y n s
  | .movi x kk => Sys2Proof.Machine.execMovi x kk s
  | .addi x kk => Sys2Proof.Machine.execAddi x kk s
  | .mov x y => Sys2Proof.Machine.execMov x y s
  | .or x y => Sys2Proof.Machine.execOr x y s
  | .and x y => Sys2Proof.Machine.execAnd x y s
  | .xor x y => Sys2Proof.Machine.execXor x y s
  | .add x y => Sys2Proof.Machine.execAdd x y s
  | .sub x y => Sys2Proof.Machine.execSub x y s
  | .shr1 x y => Sys2Proof.Machine.execShr1 x y s
  | .rsub x y => Sys2Proof.Machine.execRsub x y s
  | .shl1 x y => Sys2Proof.Machine.execShl1 x y s
  | .sifne x y => Sys2Proof.Machine.execSifne x y s
  | .movidx nnn => Sys2Proof.Machine.execMovidx nnn s
  | .jumpv0 nnn => Sys2Proof.Machine.execJumpv0 nnn s
  | .rand x kk => Sys2Proof.Machine.execRand x kk s
  | .draw x y n => Sys2Proof.Machine.execDraw x y n s
  | .sifkeq x => Sys2Proof.Machine.execSifkeq x s
  | .sifkne x => Sys2Proof.Machine.execSifkne x s
  | .timerr x => Sys2Proof.Machine.execTimerr x s
  | .keyr x => Sys2Proof.Machine.execKeyr x s
  | .timerw x => Sys2Proof.Machine.execTimerw x s
  | .soundw x => Sys2Proof.Machine.execSoundw x s
  | .addidx x => Sys2Proof.Machine.execAddidx x s
  | .font x => Sys2Proof.Machine.execFont x s
  | .bcd x => Sys2Proof.Machine.execBcd x s
  | .save x => Sys2Proof.Machine.execSave x s
  | .load x => Sys2Proof.Machine.execLoad x s

end Sys2Proof.Machine
end

