-- ==== Sys2Proof/Machine/Cycle.lean ====
section
/-!
DEFINITION. The CPU cycle (40_cpu_cycle.md R90 to R99) and phase 2 of a frame: one atomic step of the controller that moves (46_clock_and_events.md
R179 to R181, 60_exceptions.md R222).
-/

namespace Sys2Proof.Machine

/-- Decode, dispatch and execute the word `w` that was fetched at `pcFetch`; `PC` is already advanced (R90). -/
def runWord (w pcFetch : Word) (s : State) : Answer :=
  match decodeWord w with
  | .error _ => raise (.fatalDecode w pcFetch) s
  | .ok i => exec i s

/-- `cpu_cycle()` (R90): fetch, advance `PC` by 2, decode, execute. A fetch outside `MEM` faults before `PC` moves (R95). -/
def cpuCycle (s : State) : Answer :=
  match s.fetch with
  | .error f => raise f s
  | .ok w => runWord w s.pc (s.setPc (s.pc + 2))

/-- The CPU controller's next atomic step (R179, R180): an iteration of the `Tick` in progress, else the next event of its
queue. Dequeuing a `Tick(n)` is a step of its own. Assumption 15. -/
def cpuStep (s : State) : Answer :=
  match s.leftCpu, s.qCpu with
  | n + 1, _ => cpuCycle (s.setLeft .cpu n)
  | 0, [] => .next s
  | 0, .tick n :: q => .next ({ s with qCpu := q }.setLeft .cpu n)
  | 0, .input key pressed :: q => .next (inputEvent key pressed { s with qCpu := q })

/-- The Sound controller's next atomic step (R179, R180, R217). -/
def soundStep (s : State) : Answer :=
  match s.leftSound, s.qSound with
  | n + 1, _ => .next (soundTick (s.setLeft .sound n))
  | 0, [] => .next s
  | 0, n :: q => .next ({ s with qSound := q }.setLeft .sound n)

/-- The Timer controller's next atomic step (R179, R180, R216). -/
def timerStep (s : State) : Answer :=
  match s.leftTimer, s.qTimer with
  | n + 1, _ => .next (timerTick (s.setLeft .timer n))
  | 0, [] => .next s
  | 0, n :: q => .next ({ s with qTimer := q }.setLeft .timer n)

/-- The next atomic step of a controller. -/
def controllerStep (c : Ctrl) (s : State) : Answer :=
  match c with
  | .cpu => cpuStep s
  | .sound => soundStep s
  | .timer => timerStep s

end Sys2Proof.Machine
end

