-- ==== Sys2Proof/Machine/HostOps.lean ====
section
/-!
DEFINITION. The host's operations (46_clock_and_events.md R188 to R193, 60_exceptions.md R207, 70_reset_and_hazards.md R230 to R233) and the frame around the
controllers: phase 1 when `run` begins, phase 3 when all three controllers have returned (R182 to R187).
-/

namespace Sys2Proof.Machine

/-- A host operation returns: its result, and no callbacks made. -/
def State.respond (s : State) (r : Response) : State := { s with response := some r, delivered := [] }

/-- The state after a successful `reset` (R231): everything at its reset value, `MEM` as loaded; the configuration (R28) and
what belongs to the host stay. -/
def resetTo (m : Memory) (s : State) : State :=
  { State.reset with
    mem := m
    biasCpu := s.biasCpu, biasSound := s.biasSound, biasTimer := s.biasTimer
    dispatchMode := s.dispatchMode, videoAttached := s.videoAttached, audioAttached := s.audioAttached
    pending := s.pending, draws := s.draws }

/-- `reset(rom)` (R188, R231, R232): allowed in every `STATUS`. -/
def hostReset (image : Option (List Byte)) (font : Vector Byte 80) (s : State) : Answer :=
  match image with
  | none => .next (s.respond (.hostIO .imageUnavailable))
  | some rom =>
    if rom.length ≤ Config.progMax then
      match Memory.load font.toList rom with
      | .error _ => .next (s.respond (.hostIO .imageTooLong))
      | .ok m => .next (resetTo m s)
    else .next (s.respond (.hostIO .imageTooLong))

/-- Phase 1 of a frame (R182): one `Tick` for each controller. -/
def tickGeneration (micros : Nat) (s : State) : State :=
  generateTickEvent (generateTickEvent (generateTickEvent s .cpu micros) .sound micros) .timer micros

/-- The first full queue, if any, in the order of phase 1 (R177, R182). -/
def firstFullQueue (s : State) : Option Ctrl := [Ctrl.cpu, Ctrl.sound, Ctrl.timer].find? s.queueFull

/-- `run(time_delta_us)` (R189): phase 1, after which the controllers move. The result is that of the frame's end. -/
def hostRun (micros : Nat) (s : State) : Answer :=
  match s.status with
  | .uninitialized => .next (s.respond .notInitialized)
  | .faulted f => .next (s.respond (.fault f))
  | .running =>
    match firstFullQueue s with
    | some c => .refused (.queueFull c)
    | none => .next { tickGeneration micros s with phase := .dispatch, response := none, delivered := [] }

/-- `set_key(key, pressed)` (R190): only enqueues. When `Q_CPU` is full a running block's is refused by the model (U8); a faulted block's is accepted
and has no effect, as R206 says. Assumption 21. -/
def hostSetKey (key : Nat) (pressed : Bool) (s : State) : Answer :=
  match s.status with
  | .uninitialized => .next (s.respond .notInitialized)
  | _ =>
    if h : key < 16 then
      if s.queueFull .cpu then
        (if s.status = .running then .refused (.queueFull .cpu) else .next (s.respond .ok))
      else .next ({ s with qCpu := s.qCpu ++ [Event.input ⟨key, h⟩ pressed] }.respond .ok)
    else .next (s.respond (.invalidKey key))

/-- `dump_memory` (R191): the 4096 bytes in address order; a write failure is `HostIO`. -/
def hostDump (writable : Bool) (s : State) : Answer :=
  match s.status with
  | .uninitialized => .next (s.respond .notInitialized)
  | _ =>
    match writable, Memory.readSlice s.mem 0 Config.memSize with
    | true, .ok bytes => .next (s.respond (.image bytes))
    | _, _ => .next (s.respond (.hostIO .dumpFailed))

/-- A new bias: finite and not negative, else refused (R173, R192). -/
def hostSetBias (c : Ctrl) (bits : BitVec 64) (s : State) : Answer :=
  match F64.ofBits bits with
  | some b => .next ((s.setBias c b).respond .ok)
  | none => .refused (.badBias c)

/-- A new dispatch mode (R192), in every `STATUS`. Assumption 19. -/
def hostSetDispatch (mode : DispatchMode) (s : State) : Answer :=
  .next ({ s with dispatchMode := mode }.respond .ok)

/-- The callbacks attached or detached (R192). -/
def hostSetCallbacks (video audio : Bool) (s : State) : Answer :=
  .next ({ s with videoAttached := video, audioAttached := audio }.respond .ok)

/-- One operation of the host. -/
def hostOperation (op : HostOp) (s : State) : Answer :=
  match op with
  | .reset image font => hostReset image font s
  | .run micros => hostRun micros s
  | .setKey key pressed => hostSetKey key pressed s
  | .dumpMemory writable => hostDump writable s
  | .setBias c bits => hostSetBias c bits s
  | .setDispatch mode => hostSetDispatch mode s
  | .setCallbacks video audio => hostSetCallbacks video audio s

/-- Between frames the host moves (R193): the operation it has issued, or any operation at all. Assumption 5. -/
def hostStep (s : State) : Answer :=
  match s.pending with
  | op :: rest => hostOperation op { s with pending := rest }
  | [] => hostOperation (Config.hostOp s.draws) s.countDraw

/-- The framebuffer as the host receives it: row-major (R17, R187). -/
def rowMajor (fb : Framebuffer) : List Bool := (fb.toList.map (fun row => row.toList)).flatten

/-- The callback of one notification, if one is attached (R187). -/
def deliver (s : State) : Notification → List Delivery
  | .videoChanged => if s.videoAttached then [.video (rowMajor s.fb)] else []
  | .audio on => if s.audioAttached then [.audio on] else []

/-- Phase 3 (R187): `Q_HOST` is emptied in FIFO order, each notification handed to its callback. -/
def drainHost (s : State) : State :=
  { s with delivered := s.qHost.flatMap (deliver s), qHost := [] }

/-- The end of a frame (R182): phase 3, and the result of `run`. After a fault whether phase 3 delivers is free (U11).
Assumption 3. -/
def finishFrame (s : State) : State :=
  match s.status with
  | .faulted f =>
    let s1 := if Config.deliverOnFault s.draws then drainHost s else s
    { s1.countDraw with phase := .idle, response := some (.fault f) }
  | _ => { drainHost s with phase := .idle, response := some .ok }

/-- One step of phase 2, or the step that ends the frame when every controller has returned (R182). -/
def dispatchStep (s : State) : Answer :=
  match pickController s with
  | some (c, s') => controllerStep c s'
  | none => .next (finishFrame s)

/-- `s` with the word `w` stored at `PC`, where `PC` allows a fetch (R50, R95). -/
def placeWord (s : State) (w : Word) : State :=
  match Memory.write16 s.mem s.pc.toNat w with
  | .ok m => s.setMem m
  | .error _ => s

/-- `s` with the CPU next to move: running, in phase 2 of a sequential frame, with at least one cycle to perform. -/
def cpuToMove (s : State) : State :=
  { s with
    status := .running, phase := .dispatch, dispatchMode := .sequential
    leftCpu := if s.leftCpu = 0 then 1 else s.leftCpu }

end Sys2Proof.Machine
end

