-- ==== Sys2Proof/Machine/Step.lean ====
section
/-!
DEFINITION. One step of the block: one atomic step of the agent that moves next (60_exceptions.md R221, R222).
-/

namespace Sys2Proof.Machine

/-- One step: the host between frames, a controller or the orchestrator inside one (R182, R193). -/
def step (s : State) : Host.Outcome State Fault Refusal :=
  match s.phase with
  | .idle => hostStep s
  | .dispatch => dispatchStep s

/-- `s` with the instruction word of an opcode-table row placed where the next step fetches it, and the CPU next to move.
It stands for the load of a program and the start of a frame. Assumption 18. -/
def State.withFetchWord (s : State) (nbits w : Nat) : State := cpuToMove (placeWord s (tableWord nbits w))

end Sys2Proof.Machine
end

