-- ==== Sys2Proof/Safety.lean ====
section
/-!
DEFINITION. The terms that claims use: reading one byte and one pixel, what an instruction stores to, the sprite as a picture, the part of
State that no instruction addresses, and the invariant of the block.
-/

namespace Sys2Proof.Machine

/-- The byte of `MEM` at address `a` (R48). -/
def State.byteAt (s : State) (a : Nat) : Byte := Memory.get s.mem a

/-- `FB[py][px]` (R150). -/
def State.pixelAt (s : State) (py : Fin 32) (px : Fin 64) : Bool := Framebuffer.pixel s.fb py px

/-- The addresses an instruction stores to, by the address computations of its meaning: `bcd` three bytes from `I` (R144), `save` one byte
for each register from `I` (R145), the others none. -/
def storesTo (i : Instr) (s : State) (a : Nat) : Prop :=
  match i with
  | .bcd _ => effAddr s 0 ≤ a ∧ a < effAddr s 3
  | .save x => effAddr s 0 ≤ a ∧ a ≤ effAddr s x.toNat
  | .sys _ | .cls | .ret | .jump _ | .call _ | .sifeqi _ _ | .sifnei _ _ | .sifeq _ _ _ | .movi _ _ | .addi _ _
  | .mov _ _ | .or _ _ | .and _ _ | .xor _ _ | .add _ _ | .sub _ _ | .shr1 _ _ | .rsub _ _ | .shl1 _ _
  | .sifne _ _ | .movidx _ | .jumpv0 _ | .rand _ _ | .draw _ _ _ | .sifkeq _ | .sifkne _ | .timerr _ | .keyr _
  | .timerw _ | .soundw _ | .addidx _ | .font _ | .load _ => False

/-- The column of a sprite that falls on screen column `px` when it starts at `x0`: columns wrap modulo 64 (R154 (1)). -/
def spriteCol (x0 : Nat) (px : Fin 64) : Nat := (px.val + 64 - x0 % 64) % 64

/-- The row of a sprite that falls on screen row `py` when it starts at `y0`: rows wrap modulo 32 (R154 (1)). -/
def spriteRow (y0 : Nat) (py : Fin 32) : Nat := (py.val + 32 - y0 % 32) % 32

/-- The sprite of `n` rows at `I`, started at `(x0, y0)`, as a picture on the screen: bit 7 of a row byte is the leftmost pixel
(R150). -/
def spriteAt (s : State) (x0 y0 n : Nat) (py : Fin 32) (px : Fin 64) : Bool :=
  decide (spriteCol x0 px < 8 ∧ spriteRow y0 py < n) &&
    (s.byteAt (s.i.toNat + spriteRow y0 py)).getLsbD (7 - spriteCol x0 px)

/-- `s` with everything that no instruction addresses taken from `h`: the accumulators, the controllers' queues and tick
remainders, the configuration, the place in the frame, the host's side (R20, R21, R24, R27). -/
def State.withHidden (s h : State) : State :=
  { s with
    accCpu := h.accCpu, accSound := h.accSound, accTimer := h.accTimer
    qCpu := h.qCpu, qSound := h.qSound, qTimer := h.qTimer
    leftCpu := h.leftCpu, leftSound := h.leftSound, leftTimer := h.leftTimer
    biasCpu := h.biasCpu, biasSound := h.biasSound, biasTimer := h.biasTimer
    dispatchMode := h.dispatchMode, videoAttached := h.videoAttached, audioAttached := h.audioAttached
    phase := h.phase, pending := h.pending, response := h.response, delivered := h.delivered }

/-- `op` is the operation that the host performs next (R26, R193): the first it has issued, or where it has issued none the one the
free choice gives. Assumption 5. -/
def State.hostIssues (s : State) (op : HostOp) : Prop :=
  s.pending.head? = some op ∨ s.pending = [] ∧ Config.hostOp s.draws = op

/-- `t` agrees with `s` on everything the CPU controller alone owns (R27), and on `MEM`. -/
def sameCpuState (s t : State) : Prop :=
  t.v = s.v ∧ t.pc = s.pc ∧ t.i = s.i ∧ t.stack = s.stack ∧ t.sp = s.sp ∧ t.keypad = s.keypad ∧
  t.halt = s.halt ∧ t.wake = s.wake ∧ t.fb = s.fb ∧ t.mem = s.mem

/-- The invariant of the block: what every step keeps, from every state that has it. -/
structure Inv (s : State) : Prop where
  /-- The memory is in canonical form. -/
  memForm : Memory.wf s.mem
  /-- `0 <= ACC_c < 1` (R170). -/
  accFraction : ∀ c, (s.acc c).units < F64.oneUnits
  /-- The accumulators and the biases are numbers of the format (R174). -/
  inFormat : ∀ c, (s.acc c).representable ∧ (s.bias c).representable
  /-- `HALT = 1` and `WAKE != none` never hold together (R164 (4)). -/
  haltOrWake : s.halt = true → s.wake = none
  /-- `PC` is at most 0x10FE, so its wrap is unreachable (R94). -/
  pcBound : s.pc.toNat ≤ 0x10FE
  /-- A return address is at most 4096 (R102, R104). -/
  stackBound : ∀ k : Fin 16, k.val < s.sp.val → (s.stack.get k).toNat ≤ 4096
  /-- No queue holds more than `QUEUE_CAP` events (R177). -/
  queueBound : ∀ c, s.queueLength c ≤ Config.queueCap
  /-- `Q_SOUND` and `Q_TIMER` hold at most one event (R177). -/
  oneTick : s.qSound.length ≤ 1 ∧ s.qTimer.length ≤ 1
  /-- Between frames of a running block no controller has a tick left and nothing waits for the host (R184, R187). -/
  frameDone : s.phase = .idle → s.status = .running →
    s.leftCpu = 0 ∧ s.leftSound = 0 ∧ s.leftTimer = 0 ∧ s.qSound = [] ∧ s.qTimer = [] ∧ s.qHost = []
  /-- A frame only runs after a `reset` (R189, R207). -/
  frameReset : s.phase = .dispatch → s.status ≠ .uninitialized

end Sys2Proof.Machine
end

