-- ==== Sys2Proof/Certificates/Slice0/Obligations.lean ====
section
/-!
DEFINITION. The statements for the provers, from the numbered rules of spec/. `exec` is stated on the state a cycle hands it:
`PC` is the post-fetch PC (R92). A conclusion `exec i s = .next ...` is the instruction's completion; an equation
`t = (s with the named fields of t)` is its frame: every other field is unchanged. A fault leaves a next state whose `STATUS` records it: that the writes
before it stand is R98's own sentence, assumption 1.
-/

open Sys2Proof Sys2Proof.Machine

/-! ## Encoding and decode -/

/-- Words written out from 30_encoding.md R75, at least one of every family, decode to what they stand for. -/
def Obligations.WordsDecodeAsWritten : Prop :=
  decodeWord 0b0000000011100000 = .ok .cls ∧ decodeWord 0b0000000011101110 = .ok .ret ∧
  decodeWord 0b0000000100100011 = .ok (.sys 0x123) ∧ decodeWord 0b0001101010111100 = .ok (.jump 0xABC) ∧
  decodeWord 0b0110101000111111 = .ok (.movi 0xA 0x3F) ∧ decodeWord 0b1000101010110100 = .ok (.add 0xA 0xB) ∧
  decodeWord 0b1001000100100000 = .ok (.sifne 1 2) ∧ decodeWord 0b1101000100100101 = .ok (.draw 1 2 5) ∧
  decodeWord 0b1110001110011110 = .ok (.sifkeq 3) ∧ decodeWord 0b1111101000001010 = .ok (.keyr 0xA) ∧
  decodeWord 0b1111001001010101 = .ok (.save 2)

/-- Decoding the word of a well-formed instruction gives the instruction back, with every operand (R74, R75, R78). -/
def Obligations.DecodeOfEncode : Prop :=
  ∀ i : Instr, i.wellFormed = true → decodeWord (encode i) = .ok i

/-- A word that decodes is the encoding of what it decodes to, and that instruction is well formed: decode loses no bit and
answers no ill-formed instruction (R74, R78). The fields that R77 calls ignored (`n` of `5xyn`, `y` of the two shifts) are operands of the
model's instructions, so that a word that is not the canonical encoding comes back too: that is the model's choice, assumption 13. -/
def Obligations.EncodeOfDecode : Prop :=
  ∀ (w : Word) (i : Instr), decodeWord w = .ok i → encode i = w ∧ i.wellFormed = true

/-- The words that decode to nothing are those of the table of R76, family by family, and no others. -/
def Obligations.UnknownWordsExactly : Prop :=
  ∀ w : Word, (∃ r, decodeWord w = .error r) ↔
    (w.toNat / 4096 = 0x8 ∧ w.toNat % 16 ∈ [0x8, 0x9, 0xA, 0xB, 0xC, 0xD, 0xF]) ∨
    (w.toNat / 4096 = 0x9 ∧ w.toNat % 16 ≠ 0) ∨
    (w.toNat / 4096 = 0xE ∧ w.toNat % 256 ∉ [0x9E, 0xA1]) ∨
    (w.toNat / 4096 = 0xF ∧ w.toNat % 256 ∉ [0x07, 0x0A, 0x15, 0x18, 0x1E, 0x29, 0x33, 0x55, 0x65])

/-! ## Storage -/

/-- `read_bitfield` and `write_bitfield`, bit by bit, for every width and descriptor (R43, R44): the read is the field's bits at the bottom and 0
above; the write replaces the field's bits by the value's low bits and keeps the others. -/
def Obligations.BitfieldBits : Prop :=
  (∀ (w : Nat) (v : BitVec w) (start length k : Nat),
    (readField v start length).getLsbD k = (decide (k < length) && v.getLsbD (start + k))) ∧
  ∀ (w : Nat) (old value : BitVec w) (start length k : Nat), start + length ≤ w →
    (writeField old start length value).getLsbD k =
      if start ≤ k ∧ k < start + length then value.getLsbD (k - start) else old.getLsbD k

/-- The two laws of R45: a field read after a write is the value cut to the field; writing back what was read changes nothing. -/
def Obligations.BitfieldRoundTrip : Prop :=
  ∀ (w : Nat) (old value : BitVec w) (start length : Nat), start + length ≤ w →
    readField (writeField old start length value) start length = value &&& BitVec.ofNat w (2 ^ length - 1) ∧
    writeField old start length (readField old start length) = old

/-- A 16-bit write stores the high byte lower, reads back, and leaves every other byte (R49, R50), on every memory in
canonical form. -/
def Obligations.WordRoundTrip : Prop :=
  ∀ (m : Memory) (a : Nat) (v : Word), Memory.wf m → a + 1 ≤ 4095 →
    ∃ m', Memory.write16 m a v = .ok m' ∧ Memory.read16 m' a = .ok v ∧
      (Memory.get m' a).toNat = v.toNat / 256 ∧ (Memory.get m' (a + 1)).toNat = v.toNat % 256 ∧
      ∀ b, b ≠ a → b ≠ a + 1 → Memory.get m' b = Memory.get m b

/-- An access faults exactly when a byte it touches is at 4096 or more; otherwise it is performed (R53). -/
def Obligations.OutOfRangeFaults : Prop :=
  ∀ (m : Memory) (a : Nat) (b : Byte) (w : Word),
    Memory.read8 m a = (if 4096 ≤ a then .error (.outOfBounds a 1) else .ok (Memory.get m a)) ∧
    Memory.write8 m a b = (if 4096 ≤ a then .error (.outOfBounds a 1) else .ok (Memory.set m a b)) ∧
    Memory.read16 m a = (if 4096 ≤ a + 1 then .error (.outOfBounds a 2)
      else .ok (Memory.get m a ++ Memory.get m (a + 1))) ∧
    Memory.write16 m a w = (if 4096 ≤ a + 1 then .error (.outOfBounds a 2)
      else .ok (Memory.set (Memory.set m a (w.extractLsb' 8 8)) (a + 1) (w.extractLsb' 0 8)))

/-! ## The cycle and the step -/

/-- One CPU cycle (R90): fetch at `PC`, advance by 2, decode, execute. An unknown word raises `FatalDecode` with the word and its address; a
fetch outside `MEM` faults before anything moves (R95). -/
def Obligations.CycleFetchDecodeExecute : Prop :=
  ∀ s : State,
    (4095 ≤ s.pc.toNat → cpuCycle s = .next { s with status := .faulted (.outOfBounds s.pc.toNat 2) }) ∧
    (s.pc.toNat ≤ 4094 → ∀ w : Word, w = s.byteAt s.pc.toNat ++ s.byteAt (s.pc.toNat + 1) →
      (∀ r, decodeWord w = .error r →
        cpuCycle s = .next { s with pc := s.pc + 2, status := .faulted (.fatalDecode w s.pc) }) ∧
      (∀ i, decodeWord w = .ok i → cpuCycle s = exec i { s with pc := s.pc + 2 }))

/-- A step of the block runs the instruction at `PC` whenever the CPU is picked with an iteration of its `Tick` left: `step` is `exec` of it, on
the state with `PC` past the word and one iteration fewer (R90, R180). The iteration count is the model's own field, assumption 15. -/
def Obligations.StepRunsDecoded : Prop :=
  ∀ (s s1 : State) (n : Nat) (i : Instr), s.phase = .dispatch → pickController s = some (.cpu, s1) →
    s1.leftCpu = n + 1 → s1.pc.toNat ≤ 4094 →
    decodeWord (s1.byteAt s1.pc.toNat ++ s1.byteAt (s1.pc.toNat + 1)) = .ok i →
    step s = exec i { s1 with pc := s1.pc + 2, leftCpu := n }

/-- Who moves next in phase 2 (R183, R206, R212, R222). Sequential dispatch, running: the CPU while it has work, then Sound, then Timer. Concurrent
dispatch: a controller that has work, nobody exactly when none has, and only the count of free values moves (which one is a free value, assumption 6);
after a fault the CPU has none, and Sound and Timer finish theirs. After a fault in sequential dispatch no controller moves again (R212; how R206 and
R212 fit together is assumption 2). The iteration counts are the model's own fields, assumption 15. -/
def Obligations.SequentialOrder : Prop :=
  ∀ s : State,
    (s.dispatchMode = .sequential → s.status = .running →
      ((s.leftCpu ≠ 0 ∨ s.qCpu ≠ []) → pickController s = some (.cpu, s)) ∧
      (s.leftCpu = 0 → s.qCpu = [] → (s.leftSound ≠ 0 ∨ s.qSound ≠ []) → pickController s = some (.sound, s)) ∧
      (s.leftCpu = 0 → s.qCpu = [] → s.leftSound = 0 → s.qSound = [] → (s.leftTimer ≠ 0 ∨ s.qTimer ≠ []) →
        pickController s = some (.timer, s)) ∧
      (s.leftCpu = 0 → s.qCpu = [] → s.leftSound = 0 → s.qSound = [] → s.leftTimer = 0 → s.qTimer = [] →
        pickController s = none)) ∧
    (s.dispatchMode = .concurrent →
      (pickController s = none ↔
        ¬ (s.status = .running ∧ (s.leftCpu ≠ 0 ∨ s.qCpu ≠ [])) ∧ ¬ (s.leftSound ≠ 0 ∨ s.qSound ≠ []) ∧
          ¬ (s.leftTimer ≠ 0 ∨ s.qTimer ≠ [])) ∧
      ∀ c t, pickController s = some (c, t) →
        t = { s with draws := s.draws + 1 } ∧
        (c = .cpu → s.status = .running ∧ (s.leftCpu ≠ 0 ∨ s.qCpu ≠ [])) ∧
        (c = .sound → s.leftSound ≠ 0 ∨ s.qSound ≠ []) ∧
        (c = .timer → s.leftTimer ≠ 0 ∨ s.qTimer ≠ [])) ∧
    ∀ f, s.dispatchMode = .sequential → s.status = .faulted f →
      pickController s = none

/-! ## Control flow -/

/-- `sys` raises `FatalDecode` with its own word and address, on every operand (R101). -/
def Obligations.SysIsFatal : Prop :=
  ∀ (nnn : Addr) (s : State),
    exec (.sys nnn) s = .next { s with status := .faulted (.fatalDecode (BitVec.ofNat 16 nnn.toNat) (s.pc - 2)) }

/-- `jump` sets `PC` to its operand (R103); `jumpv0` to operand plus `V0`, which never wraps (R105). -/
def Obligations.JumpTargets : Prop :=
  ∀ (nnn : Addr) (s : State),
    (∃ t, exec (.jump nnn) s = .next t ∧ t = { s with pc := t.pc } ∧ t.pc.toNat = nnn.toNat) ∧
    (∃ t, exec (.jumpv0 nnn) s = .next t ∧ t = { s with pc := t.pc } ∧
      t.pc.toNat = nnn.toNat + (s.reg 0).toNat)

/-- `call` pushes the post-fetch `PC` and jumps; with a full stack it raises `StackOverflow` and leaves the stack (R104). -/
def Obligations.CallPushes : Prop :=
  ∀ (nnn : Addr) (s : State),
    (s.sp.val < 16 → ∃ t, exec (.call nnn) s = .next t ∧
      t = { s with pc := t.pc, stack := t.stack, sp := t.sp } ∧ t.pc.toNat = nnn.toNat ∧ t.sp.val = s.sp.val + 1 ∧
      ∀ k : Fin 16, t.stack.get k = if k.val = s.sp.val then s.pc else s.stack.get k) ∧
    (s.sp.val = 16 → exec (.call nnn) s = .next { s with status := .faulted (.stackOverflow (s.pc - 2)) })

/-- `ret` pops into `PC`, unmasked; with an empty stack it raises `FatalStackUnderflow` and changes nothing else (R102). -/
def Obligations.RetPops : Prop :=
  ∀ s : State,
    (∀ k : Fin 16, s.sp.val = k.val + 1 → ∃ t, exec .ret s = .next t ∧ t = { s with pc := t.pc, sp := t.sp } ∧
      t.pc = s.stack.get k ∧ t.sp.val = k.val) ∧
    (s.sp.val = 0 → exec .ret s = .next { s with status := .faulted (.stackUnderflow (s.pc - 2)) })

/-- A `ret` that follows a `call` resumes after the `call`, with the stack as deep as before, whatever ran between them, nested calls and
returns included, if the stack is as deep as the `call` left it and the entries in use are those it left (R102, R104). -/
def Obligations.ReturnAfterCall : Prop :=
  ∀ (nnn : Addr) (s t u : State), s.sp.val < 16 → exec (.call nnn) s = .next t →
    u.sp = t.sp → (∀ k : Fin 16, k.val < u.sp.val → u.stack.get k = t.stack.get k) →
    ∃ r, exec .ret u = .next r ∧ r.pc = s.pc ∧ r.sp = s.sp

/-- The four register skips move `PC` past one more instruction exactly when their condition holds, and change nothing else
(R93, R106 to R109). -/
def Obligations.RegisterSkips : Prop :=
  ∀ (x y n : Nibble) (kk : Byte) (s : State),
    exec (.sifeqi x kk) s = .next { s with pc := if s.reg x = kk then s.pc + 2 else s.pc } ∧
    exec (.sifnei x kk) s = .next { s with pc := if s.reg x ≠ kk then s.pc + 2 else s.pc } ∧
    exec (.sifeq x y n) s = .next { s with pc := if s.reg x = s.reg y then s.pc + 2 else s.pc } ∧
    exec (.sifne x y) s = .next { s with pc := if s.reg x ≠ s.reg y then s.pc + 2 else s.pc }

/-! ## Registers, arithmetic, logic -/

/-- `movi`, `addi`, `mov` write `Vx` alone: no flag, no other register (R121 to R123). -/
def Obligations.MovesAndAddi : Prop :=
  ∀ (x y : Nibble) (kk : Byte) (s : State),
    (∃ t, exec (.movi x kk) s = .next t ∧ t = { s with v := t.v } ∧
      ∀ j, t.reg j = if j = x then kk else s.reg j) ∧
    (∃ t, exec (.addi x kk) s = .next t ∧ t = { s with v := t.v } ∧
      (t.reg x).toNat = ((s.reg x).toNat + kk.toNat) % 256 ∧ ∀ j, j ≠ x → t.reg j = s.reg j) ∧
    (∃ t, exec (.mov x y) s = .next t ∧ t = { s with v := t.v } ∧
      ∀ j, t.reg j = if j = x then s.reg y else s.reg j)

/-- `or`, `and`, `xor` combine the two registers bit by bit into `Vx` and write no flag (R124 to R126). -/
def Obligations.LogicBitwise : Prop :=
  ∀ (x y : Nibble) (s : State),
    (∃ t, exec (.or x y) s = .next t ∧ t = { s with v := t.v } ∧ (∀ j, j ≠ x → t.reg j = s.reg j) ∧
      ∀ k, (t.reg x).getLsbD k = ((s.reg x).getLsbD k || (s.reg y).getLsbD k)) ∧
    (∃ t, exec (.and x y) s = .next t ∧ t = { s with v := t.v } ∧ (∀ j, j ≠ x → t.reg j = s.reg j) ∧
      ∀ k, (t.reg x).getLsbD k = ((s.reg x).getLsbD k && (s.reg y).getLsbD k)) ∧
    (∃ t, exec (.xor x y) s = .next t ∧ t = { s with v := t.v } ∧ (∀ j, j ≠ x → t.reg j = s.reg j) ∧
      ∀ k, (t.reg x).getLsbD k = ((s.reg x).getLsbD k ^^ (s.reg y).getLsbD k))

/-- `add`: the sum modulo 256 in `Vx`, the carry in `VF`; with `x = 15` the sum stays and the carry is lost (R127, R134). -/
def Obligations.AddWithCarry : Prop :=
  ∀ (x y : Nibble) (s : State), ∃ t, exec (.add x y) s = .next t ∧ t = { s with v := t.v } ∧
    (t.reg x).toNat = ((s.reg x).toNat + (s.reg y).toNat) % 256 ∧
    (x ≠ 15 → t.reg 15 = if (s.reg x).toNat + (s.reg y).toNat > 255 then 1 else 0) ∧
    ∀ j, j ≠ x → j ≠ 15 → t.reg j = s.reg j

/-- `sub` and `rsub`: the difference modulo 256 in `Vx`, the no-borrow in `VF`; with `x = 15` the difference stays
(R128, R130, R134). -/
def Obligations.SubtractWithNoBorrow : Prop :=
  ∀ (x y : Nibble) (s : State),
    (∃ t, exec (.sub x y) s = .next t ∧ t = { s with v := t.v } ∧
      ((t.reg x).toNat : Int) = ((s.reg x).toNat - (s.reg y).toNat : Int) % 256 ∧
      (x ≠ 15 → t.reg 15 = if (s.reg y).toNat ≤ (s.reg x).toNat then 1 else 0) ∧
      ∀ j, j ≠ x → j ≠ 15 → t.reg j = s.reg j) ∧
    (∃ t, exec (.rsub x y) s = .next t ∧ t = { s with v := t.v } ∧
      ((t.reg x).toNat : Int) = ((s.reg y).toNat - (s.reg x).toNat : Int) % 256 ∧
      (x ≠ 15 → t.reg 15 = if (s.reg x).toNat ≤ (s.reg y).toNat then 1 else 0) ∧
      ∀ j, j ≠ x → j ≠ 15 → t.reg j = s.reg j)

/-- `shr1` and `shl1`: `Vx` shifted by one with zero fill, the bit shifted out in `VF` as 0 or 1, `y` without effect; with `x = 15`
the result stays (R129, R131, R134). -/
def Obligations.ShiftByOne : Prop :=
  ∀ (x y : Nibble) (s : State),
    (∃ t, exec (.shr1 x y) s = .next t ∧ t = { s with v := t.v } ∧ (t.reg x).toNat = (s.reg x).toNat / 2 ∧
      (x ≠ 15 → (t.reg 15).toNat = (s.reg x).toNat % 2) ∧ ∀ j, j ≠ x → j ≠ 15 → t.reg j = s.reg j) ∧
    (∃ t, exec (.shl1 x y) s = .next t ∧ t = { s with v := t.v } ∧ (t.reg x).toNat = 2 * (s.reg x).toNat % 256 ∧
      (x ≠ 15 → (t.reg 15).toNat = (s.reg x).toNat / 128) ∧ ∀ j, j ≠ x → j ≠ 15 → t.reg j = s.reg j)

/-- `rand`: some byte ANDed with the immediate goes to `Vx`, so no bit that `kk` lacks is set; nothing else changes but the count of free
values taken, which is the model's own, assumption 4. It holds whatever byte the free value is (R132, R133). -/
def Obligations.RandMasksFreeByte : Prop :=
  ∀ (x : Nibble) (kk : Byte) (s : State), ∃ (t : State) (r : Byte), exec (.rand x kk) s = .next t ∧
    t = { s with v := t.v, draws := s.draws + 1 } ∧ r = Config.draw8 s.draws ∧ t.reg x = r &&& kk ∧
    (∀ k, (t.reg x).getLsbD k = true → kk.getLsbD k = true) ∧ ∀ j, j ≠ x → t.reg j = s.reg j

/-! ## Index register and memory -/

/-- `movidx`, `addidx` (modulo 65536, no flag), `font` (5 bytes a glyph, unmasked) write `I` alone (R141 to R143). -/
def Obligations.IndexWrites : Prop :=
  ∀ (nnn : Addr) (x : Nibble) (s : State),
    (∃ t, exec (.movidx nnn) s = .next t ∧ t = { s with i := t.i } ∧ t.i.toNat = nnn.toNat) ∧
    (∃ t, exec (.addidx x) s = .next t ∧ t = { s with i := t.i } ∧
      t.i.toNat = (s.i.toNat + (s.reg x).toNat) % 65536) ∧
    (∃ t, exec (.font x) s = .next t ∧ t = { s with i := t.i } ∧ t.i.toNat = 5 * (s.reg x).toNat)

/-- `bcd` (R144). With room for three bytes: the decimal digits of `Vx` at `I`, `I + 1`, `I + 2`, `I` and every other byte unchanged. Without:
`OutOfBounds` at the first write that is out of range, the digits before it stored. -/
def Obligations.BcdStoresDigits : Prop :=
  ∀ (x : Nibble) (s : State), Memory.wf s.mem →
    (s.i.toNat + 2 ≤ 4095 → ∃ t, exec (.bcd x) s = .next t ∧ t = { s with mem := t.mem } ∧
      (t.byteAt s.i.toNat).toNat = (s.reg x).toNat / 100 ∧
      (t.byteAt (s.i.toNat + 1)).toNat = (s.reg x).toNat / 10 % 10 ∧
      (t.byteAt (s.i.toNat + 2)).toNat = (s.reg x).toNat % 10 ∧
      ∀ a, (a < s.i.toNat ∨ s.i.toNat + 2 < a) → t.byteAt a = s.byteAt a) ∧
    (4096 ≤ s.i.toNat + 2 → ∃ t, exec (.bcd x) s = .next t ∧
      t = { s with mem := t.mem, status := .faulted (.outOfBounds (max s.i.toNat 4096) 1) } ∧
      (s.i.toNat ≤ 4095 → (t.byteAt s.i.toNat).toNat = (s.reg x).toNat / 100) ∧
      (s.i.toNat + 1 ≤ 4095 → (t.byteAt (s.i.toNat + 1)).toNat = (s.reg x).toNat / 10 % 10) ∧
      ∀ a, (a < s.i.toNat ∨ 4095 < a) → t.byteAt a = s.byteAt a)

/-- `save` (R145). With room: `V0` to `Vx` at `I` upward, `I` ends `x + 1` higher, every other byte unchanged. Without: `OutOfBounds` at the
first iteration that is out of range, the registers before it stored and `I` moved past them. -/
def Obligations.SaveStoresRegisters : Prop :=
  ∀ (x : Nibble) (s : State), Memory.wf s.mem →
    (s.i.toNat + x.toNat ≤ 4095 → ∃ t, exec (.save x) s = .next t ∧ t = { s with mem := t.mem, i := t.i } ∧
      t.i.toNat = s.i.toNat + x.toNat + 1 ∧
      (∀ j : Nibble, j.toNat ≤ x.toNat → t.byteAt (s.i.toNat + j.toNat) = s.reg j) ∧
      ∀ a, (a < s.i.toNat ∨ s.i.toNat + x.toNat < a) → t.byteAt a = s.byteAt a) ∧
    (4096 ≤ s.i.toNat + x.toNat → ∃ t, exec (.save x) s = .next t ∧
      t = { s with mem := t.mem, i := t.i, status := .faulted (.outOfBounds (max s.i.toNat 4096) 1) } ∧
      t.i.toNat = max s.i.toNat 4096 ∧
      (∀ j : Nibble, s.i.toNat + j.toNat ≤ 4095 → t.byteAt (s.i.toNat + j.toNat) = s.reg j) ∧
      ∀ a, (a < s.i.toNat ∨ 4095 < a) → t.byteAt a = s.byteAt a)

/-- `load` (R146). With room: the bytes at `I` upward in `V0` to `Vx`, the other registers unchanged, `I` ends `x + 1` higher. Without:
`OutOfBounds` at the first iteration that is out of range, the registers before it loaded and `I` moved past their bytes. -/
def Obligations.LoadFillsRegisters : Prop :=
  ∀ (x : Nibble) (s : State),
    (s.i.toNat + x.toNat ≤ 4095 → ∃ t, exec (.load x) s = .next t ∧ t = { s with v := t.v, i := t.i } ∧
      t.i.toNat = s.i.toNat + x.toNat + 1 ∧
      ∀ j : Nibble, t.reg j = if j.toNat ≤ x.toNat then s.byteAt (s.i.toNat + j.toNat) else s.reg j) ∧
    (4096 ≤ s.i.toNat + x.toNat → ∃ t, exec (.load x) s = .next t ∧
      t = { s with v := t.v, i := t.i, status := .faulted (.outOfBounds (max s.i.toNat 4096) 1) } ∧
      t.i.toNat = max s.i.toNat 4096 ∧
      ∀ j : Nibble, t.reg j =
        if j.toNat ≤ x.toNat ∧ s.i.toNat + j.toNat ≤ 4095 then s.byteAt (s.i.toNat + j.toNat) else s.reg j)

/-- What `save` has stored, `load` brings back, into any registers (R145, R146). -/
def Obligations.LoadAfterSave : Prop :=
  ∀ (x : Nibble) (s t u : State), Memory.wf s.mem → s.i.toNat + x.toNat ≤ 4095 → exec (.save x) s = .next t →
    u.mem = t.mem → u.i = s.i →
    ∃ r, exec (.load x) u = .next r ∧ r.i = t.i ∧ ∀ j : Nibble, j.toNat ≤ x.toNat → r.reg j = s.reg j

/-! ## Display -/

/-- `cls` clears every pixel and changes nothing else: no flag, no notification (R151). -/
def Obligations.ClsClears : Prop :=
  ∀ s : State, ∃ t, exec .cls s = .next t ∧ t = { s with fb := t.fb } ∧ ∀ py px, t.pixelAt py px = false

/-- `draw`, as a picture: every pixel is XORed with the sprite laid on the screen with wrap; `VF` is 1 when a set pixel met a set sprite bit and 0
otherwise; `VideoChanged` is pushed; nothing else changes (R152, R153, R155). -/
def Obligations.DrawXorsSprite : Prop :=
  ∀ (x y n : Nibble) (s : State), (n = 0 ∨ s.i.toNat + n.toNat ≤ 4096) →
    ∃ t, exec (.draw x y n) s = .next t ∧ t = { s with fb := t.fb, v := t.v, qHost := s.qHost ++ [.videoChanged] } ∧
      (∀ py px, t.pixelAt py px =
        (s.pixelAt py px ^^ spriteAt s (s.reg x).toNat (s.reg y).toNat n.toNat py px)) ∧
      (∀ j, j ≠ 15 → t.reg j = s.reg j) ∧
      (t.reg 15 = 0 ∨ t.reg 15 = 1) ∧
      (t.reg 15 = 1 ↔ ∃ py px, s.pixelAt py px = true ∧
        spriteAt s (s.reg x).toNat (s.reg y).toNat n.toNat py px = true)

/-- Drawing the same sprite twice gives the screen back, and the second collision flag says whether the sprite has a set bit at all (R152,
R155: the worked example, for every sprite). -/
def Obligations.DrawTwiceErases : Prop :=
  ∀ (x y n : Nibble) (s t u : State), x ≠ 15 → y ≠ 15 → (n = 0 ∨ s.i.toNat + n.toNat ≤ 4096) →
    (∀ py px, s.pixelAt py px = false) → exec (.draw x y n) s = .next t → exec (.draw x y n) t = .next u →
    (∀ py px, u.pixelAt py px = s.pixelAt py px) ∧ t.reg 15 = 0 ∧
    (u.reg 15 = 1 ↔ ∃ py px, spriteAt s (s.reg x).toNat (s.reg y).toNat n.toNat py px = true)

/-- A `draw` whose sprite reaches past the end of `MEM` (R153): `OutOfBounds` at the first such row; the rows before it are drawn, `VF` reflects
them, and no notification is pushed. -/
def Obligations.DrawFault : Prop :=
  ∀ (x y n : Nibble) (s : State), n ≠ 0 → 4096 < s.i.toNat + n.toNat →
    ∃ t, exec (.draw x y n) s = .next t ∧
      t = { s with fb := t.fb, v := t.v, status := .faulted (.outOfBounds (max s.i.toNat 4096) 1) } ∧
      (∀ py px, t.pixelAt py px =
        (s.pixelAt py px ^^ spriteAt s (s.reg x).toNat (s.reg y).toNat (4096 - s.i.toNat) py px)) ∧
      (∀ j, j ≠ 15 → t.reg j = s.reg j) ∧
      (t.reg 15 = 0 ∨ t.reg 15 = 1) ∧
      (t.reg 15 = 1 ↔ ∃ py px, s.pixelAt py px = true ∧
        spriteAt s (s.reg x).toNat (s.reg y).toNat (4096 - s.i.toNat) py px = true)

/-! ## Keypad and timers -/

/-- The key skips test bit `Vx` of `KEYPAD`; a `Vx` above 15 raises `InvariantViolation` (R161, R162, R204). -/
def Obligations.KeySkips : Prop :=
  ∀ (x : Nibble) (s : State),
    ((s.reg x).toNat ≤ 15 →
      exec (.sifkeq x) s =
        .next { s with pc := if s.keypad.getLsbD (s.reg x).toNat = true then s.pc + 2 else s.pc } ∧
      exec (.sifkne x) s =
        .next { s with pc := if s.keypad.getLsbD (s.reg x).toNat = false then s.pc + 2 else s.pc }) ∧
    (15 < (s.reg x).toNat →
      exec (.sifkeq x) s = .next { s with status := .faulted (.invariantViolation (s.pc - 2)) } ∧
      exec (.sifkne x) s = .next { s with status := .faulted (.invariantViolation (s.pc - 2)) })

/-- `keyr`: with no recorded key it halts and goes back to its own address; with one it consumes it into `Vx`. It never looks at
`KEYPAD` (R164). -/
def Obligations.KeyrWaitsOrConsumes : Prop :=
  ∀ (x : Nibble) (s : State),
    (s.wake = none → exec (.keyr x) s = .next { s with halt := true, pc := s.pc - 2 }) ∧
    (∀ k : Fin 16, s.wake = some k → ∃ t, exec (.keyr x) s = .next t ∧ t = { s with v := t.v, wake := none } ∧
      (t.reg x).toNat = k.val ∧ ∀ j, j ≠ x → t.reg j = s.reg j)

/-- An `Input` event sets or clears its key's bit alone, and a press while `HALT = 1` clears `HALT` and records the key; a release never
wakes; and that is what the CPU controller does when it takes the event from `Q_CPU` (R165). -/
def Obligations.InputEventEffect : Prop :=
  ∀ (key : Fin 16) (pressed : Bool) (s : State),
    let t := inputEvent key pressed s
    t = { s with keypad := t.keypad, halt := t.halt, wake := t.wake } ∧
    (∀ k, t.keypad.getLsbD k = if k = key.val then pressed else s.keypad.getLsbD k) ∧
    (t.halt = if s.halt = true ∧ pressed = true then false else s.halt) ∧
    (t.wake = if s.halt = true ∧ pressed = true then some key else s.wake) ∧
    ∀ q, s.leftCpu = 0 → s.qCpu = .input key pressed :: q → cpuStep s = .next (inputEvent key pressed { s with qCpu := q })

/-- The blocking key read as a whole (R164, R165): a `keyr` that finds no key re-executes in place until a press arrives, and the next `keyr`
takes that key exactly once and goes on. -/
def Obligations.KeyrTakesNextPress : Prop :=
  ∀ (x : Nibble) (key : Fin 16) (s t : State), s.wake = none → exec (.keyr x) s = .next t →
    ∃ r, exec (.keyr x) { inputEvent key true t with pc := t.pc + 2 } = .next r ∧
      (r.reg x).toNat = key.val ∧ r.wake = none ∧ r.halt = false ∧ r.pc = s.pc

/-- `timerr` reads `DT` into `Vx`; `timerw` writes `DT` from `Vx` (R166, R167). -/
def Obligations.DelayTimerAccess : Prop :=
  ∀ (x : Nibble) (s : State),
    (∃ t, exec (.timerr x) s = .next t ∧ t = { s with v := t.v } ∧
      ∀ j, t.reg j = if j = x then s.dt else s.reg j) ∧
    exec (.timerw x) s = .next { s with dt := s.reg x }

/-- `soundw` writes `ST` and sets the transition flag on a zero crossing, in either direction; otherwise the flag keeps its value (R168,
R218). -/
def Obligations.SoundWriteLatches : Prop :=
  ∀ (x : Nibble) (s : State), ∃ t, exec (.soundw x) s = .next t ∧ t = { s with st := s.reg x, stFlag := t.stFlag } ∧
    (t.stFlag = true ↔ s.stFlag = true ∨ (s.st = 0 ∧ s.reg x ≠ 0) ∨ (s.st ≠ 0 ∧ s.reg x = 0))

/-- A timer tick takes one from `DT` unless it is 0 and does nothing else; and the Timer controller performs one for each iteration left of its
`Tick` (R180, R216). The iteration count is the model's own field, assumption 15. -/
def Obligations.TimerTickCounts : Prop :=
  ∀ s : State,
    (let t := timerTick s;
      t = { s with dt := t.dt } ∧ t.dt.toNat = s.dt.toNat - 1) ∧
    ∀ n, s.leftTimer = n + 1 → timerStep s = .next (timerTick { s with leftTimer := n })

/-- A sound tick takes one from `ST` unless it is 0, then reads and clears the flag, and pushes `Audio(ST > 0)` exactly when it was set, by an
earlier write or by its own step from 1 to 0; and the Sound controller performs one for each iteration left of its `Tick` (R180, R217, R219).
The iteration count is the model's own field, assumption 15. -/
def Obligations.SoundTickNotifies : Prop :=
  ∀ s : State,
    (let t := soundTick s;
      t = { s with st := t.st, stFlag := false, qHost := t.qHost } ∧ t.st.toNat = s.st.toNat - 1 ∧
      ((s.stFlag = true ∨ s.st = 1) → t.qHost = s.qHost ++ [.audio (decide (t.st ≠ 0))]) ∧
      (s.stFlag = false → s.st ≠ 1 → t.qHost = s.qHost)) ∧
    ∀ n, s.leftSound = n + 1 → soundStep s = .next (soundTick { s with leftSound := n })

/-! ## Clock accumulators and frames -/

/-- `consume_whole` splits an accumulator of the format exactly into whole ticks and a remainder below 1 that is again a number of the format
(R172). How the format's numbers are held is the model's choice, assumption 7. -/
def Obligations.ConsumeWholeExact : Prop :=
  ∀ a : F64, a.representable →
    (consumeWhole a).1 * F64.oneUnits + (consumeWhole a).2.units = a.units ∧
    (consumeWhole a).2.units < F64.oneUnits ∧ (consumeWhole a).2.representable

/-- Rounding answers a number of the format than which no number of the format is nearer to the exact quotient; where another is as near, it
answers the one with an even significand, that is a multiple of twice the distance to the next number (R174; the format is the spec's
decision, its unbounded exponent assumption 7). -/
def Obligations.RoundsToNearest : Prop :=
  ∀ (num den : Nat), 0 < den →
    let r := F64.round num den
    r.representable ∧
    ∀ y : F64, y.representable →
      |(r.units * den : Int) - num| ≤ |(y.units * den : Int) - num| ∧
      (y ≠ r → |(y.units * den : Int) - num| = |(r.units * den : Int) - num| → 2 * F64.quantum r.units ∣ r.units)

/-- `run` on a running block whose queues have room: one `Tick` for each controller at the tail of its queue, the accumulators left in [0, 1), the
controllers next to move (R178, R182, R189). An effective rate is 500 or 60 times the bias, rounded once (R5, R173); `produce` converts the
microseconds, divides by 1000000, multiplies by the rate and adds to the accumulator, each rounded, in that order (R171). What rounding is,
RoundsToNearest says; how the format's numbers are held, and that the conversion rounds too, is assumption 7. `phase`, `response` and `delivered` are the
model's own, assumptions 14 and 15. That the host's step performs `run` is StepPerformsHostOperation. -/
def Obligations.RunStartsFrame : Prop :=
  (∀ b : F64,
    effectiveRate .cpu b = F64.round (500 * b.units) 1 ∧ effectiveRate .sound b = F64.round (60 * b.units) 1 ∧
    effectiveRate .timer b = F64.round (60 * b.units) 1) ∧
  (∀ (acc : F64) (micros : Nat) (rate : F64),
    let elapsed := F64.round (micros * F64.oneUnits) 1
    let seconds := F64.round elapsed.units 1000000
    let ticks := F64.round (seconds.units * rate.units) F64.oneUnits
    produce acc micros rate = F64.round (acc.units + ticks.units) 1) ∧
  ∀ (micros : Nat) (s : State), s.status = .running → (∀ c, s.queueLength c < Config.queueCap) →
    ∃ t, hostRun micros s = .next t ∧
      t = { s with
        accCpu := t.accCpu, accSound := t.accSound, accTimer := t.accTimer
        qCpu := t.qCpu, qSound := t.qSound, qTimer := t.qTimer
        phase := .dispatch, response := none, delivered := [] } ∧
      (∃ n, t.qCpu = s.qCpu ++ [.tick n] ∧
        n * F64.oneUnits + t.accCpu.units = (produce s.accCpu micros (effectiveRate .cpu s.biasCpu)).units) ∧
      (∃ n, t.qSound = s.qSound ++ [n] ∧
        n * F64.oneUnits + t.accSound.units = (produce s.accSound micros (effectiveRate .sound s.biasSound)).units) ∧
      (∃ n, t.qTimer = s.qTimer ++ [n] ∧
        n * F64.oneUnits + t.accTimer.units = (produce s.accTimer micros (effectiveRate .timer s.biasTimer)).units) ∧
      ∀ c, (t.acc c).units < F64.oneUnits

/-- When every controller has returned the frame ends. On a running block the step drains `Q_HOST` in order into the attached callbacks and `run`
answers Ok (R182, R187); on a block that was faulted in the frame `run` answers the fault, which stays in `STATUS` (R189, R206), and the queue is either
drained so or kept with no callback made, a free value (assumption 3), whose taking is counted (assumption 4). `phase`, `response` and `delivered` are
the model's own, assumptions 14 and 15. -/
def Obligations.FrameEndDelivers : Prop :=
  ∀ s : State,
    (s.phase = .dispatch → pickController s = none →
      (s.status = .running → ∃ t, step s = .next t ∧
        t = { s with phase := .idle, response := some .ok, delivered := t.delivered, qHost := [] } ∧
        t.delivered = (s.qHost.map (deliver s)).flatten) ∧
      ∀ f, s.status = .faulted f → ∃ t, step s = .next t ∧
        t = { s with
          phase := .idle, response := some (.fault f), delivered := t.delivered, qHost := t.qHost
          draws := s.draws + 1 } ∧
        ((t.qHost = [] ∧ t.delivered = (s.qHost.map (deliver s)).flatten) ∨
          (t.qHost = s.qHost ∧ t.delivered = s.delivered))) ∧
    (∀ on, deliver s (.audio on) = if s.audioAttached = true then [.audio on] else []) ∧
    ∃ pixels, deliver s .videoChanged = (if s.videoAttached = true then [.video pixels] else []) ∧
      pixels.length = 2048 ∧
      ∀ (py : Fin 32) (px : Fin 64), pixels[py.val * 64 + px.val]? = some (s.pixelAt py px)

/-! ## The host's operations, reset, faults -/

/-- Before the first `reset`, `run`, `set_key` and `dump_memory` answer `NotInitialized` and change nothing of the block (R207, R230). That
`response` keeps the answer and `delivered` is emptied is the model's choice, assumption 14. -/
def Obligations.UninitializedRefuses : Prop :=
  ∀ (micros key : Nat) (pressed writable : Bool) (s : State), s.status = .uninitialized →
    hostRun micros s = .next { s with response := some .notInitialized, delivered := [] } ∧
    hostSetKey key pressed s = .next { s with response := some .notInitialized, delivered := [] } ∧
    hostDump writable s = .next { s with response := some .notInitialized, delivered := [] }

/-- `set_key` answers `InvalidKey` above 15; otherwise it appends the event to `Q_CPU`: in both cases every other piece of the block's state,
`KEYPAD` too, stays (R190). A full `Q_CPU` is refused while the block runs (R177: the spec says to refuse). That a faulted block enqueues too, and
drops the event when `Q_CPU` is full, is assumption 21; that `response` keeps the answer and `delivered` is emptied is assumption 14. -/
def Obligations.SetKeyOnlyEnqueues : Prop :=
  ∀ (key : Nat) (pressed : Bool) (s : State), s.status ≠ .uninitialized →
    (15 < key → hostSetKey key pressed s = .next { s with response := some (.invalidKey key), delivered := [] }) ∧
    (∀ k : Fin 16, k.val = key → s.qCpu.length < Config.queueCap →
      hostSetKey key pressed s =
        .next { s with qCpu := s.qCpu ++ [.input k pressed], response := some .ok, delivered := [] }) ∧
    (key ≤ 15 → Config.queueCap ≤ s.qCpu.length → s.status = .running →
      hostSetKey key pressed s = .refused (.queueFull .cpu)) ∧
    (key ≤ 15 → Config.queueCap ≤ s.qCpu.length → s.status ≠ .running →
      hostSetKey key pressed s = .next { s with response := some .ok, delivered := [] })

/-- A successful `reset` leaves every piece of state as R231 lists it, whatever the state and `STATUS` before; the configuration stays (R28,
R231). `response` is the model's own, assumption 14. -/
def Obligations.ResetEstablishes : Prop :=
  ∀ (rom : List Byte) (font : Vector Byte 80) (s : State), rom.length ≤ 3584 →
    ∃ t, hostReset (some rom) font s = .next t ∧
      (∀ j, t.reg j = 0) ∧ t.i = 0 ∧ t.pc = 0x0200 ∧ t.sp = 0 ∧ t.keypad = 0 ∧ t.halt = false ∧ t.wake = none ∧
      (∀ py px, t.pixelAt py px = false) ∧ t.dt = 0 ∧ t.st = 0 ∧ t.stFlag = false ∧
      (∀ c, t.acc c = F64.zero) ∧ t.qCpu = [] ∧ t.qSound = [] ∧ t.qTimer = [] ∧ t.qHost = [] ∧ t.status = .running ∧
      t.response = some .ok ∧
      (∀ c, t.bias c = s.bias c) ∧ t.dispatchMode = s.dispatchMode ∧ t.videoAttached = s.videoAttached ∧
      t.audioAttached = s.audioAttached ∧ Memory.wf t.mem ∧
      ∀ a, a < 4096 → t.byteAt a =
        if a < 80 then font.toList.getD a 0
        else if 0x200 ≤ a ∧ a < 0x200 + rom.length then rom.getD (a - 0x200) 0 else 0

/-- A `reset` without an image, or with one longer than 3584 bytes, answers `HostIO` and changes nothing of the block (R232). The cause it
carries is assumption 16; that `response` keeps the answer and `delivered` is emptied is assumption 14. -/
def Obligations.FailedResetChangesNothing : Prop :=
  ∀ (image : Option (List Byte)) (font : Vector Byte 80) (s : State), (∀ rom, image = some rom → 3584 < rom.length) →
    ∃ c, hostReset image font s = .next { s with response := some (.hostIO c), delivered := [] }

/-- The state right after reset: every row of the table of R28, but for `STACK[k]`, which it calls not observable, and the configuration, which a
reset leaves as it is. `MEM` holds the 80 bytes of the default font of R233 and zero elsewhere. The bytes of that font are the spec's general
knowledge (R233, D31); that `State.reset` has the default font (the font is an input of `reset`) and an empty image is the model's choice,
assumption 11. -/
def Obligations.ResetState : Prop :=
  (∀ j, State.reset.reg j = 0) ∧ State.reset.pc = 0x0200 ∧ State.reset.i = 0 ∧ State.reset.sp = 0 ∧
  State.reset.keypad = 0 ∧ State.reset.halt = false ∧ State.reset.wake = none ∧
  (∀ py px, State.reset.pixelAt py px = false) ∧ State.reset.dt = 0 ∧
  State.reset.st = 0 ∧ State.reset.stFlag = false ∧
  (∀ c, (State.reset.acc c).units = 0) ∧ (∀ c, State.reset.queueLength c = 0) ∧ State.reset.qHost = [] ∧
  State.reset.status = .running ∧
  (List.range 40).map State.reset.byteAt =
    [0xF0, 0x90, 0x90, 0x90, 0xF0] ++ [0x20, 0x60, 0x20, 0x20, 0x70] ++ [0xF0, 0x10, 0xF0, 0x80, 0xF0] ++
    [0xF0, 0x10, 0xF0, 0x10, 0xF0] ++ [0x90, 0x90, 0xF0, 0x10, 0x10] ++ [0xF0, 0x80, 0xF0, 0x10, 0xF0] ++
    [0xF0, 0x80, 0xF0, 0x90, 0xF0] ++ [0xF0, 0x10, 0x20, 0x40, 0x40] ∧
  (List.range 40).map (fun k => State.reset.byteAt (40 + k)) =
    [0xF0, 0x90, 0xF0, 0x90, 0xF0] ++ [0xF0, 0x90, 0xF0, 0x10, 0xF0] ++ [0xF0, 0x90, 0xF0, 0x90, 0x90] ++
    [0xE0, 0x90, 0xE0, 0x90, 0xE0] ++ [0xF0, 0x80, 0x80, 0x80, 0xF0] ++ [0xE0, 0x90, 0x90, 0x90, 0xE0] ++
    [0xF0, 0x80, 0xF0, 0x80, 0xF0] ++ [0xF0, 0x80, 0xF0, 0x80, 0x80] ∧
  ∀ a, 80 ≤ a → State.reset.byteAt a = 0

/-- A fault is sticky (R206): a step from `STATUS = Faulted(f)` that answers a next state leaves the CPU's state, its `MEM` and `STATUS` as they
were, unless it is the host's step and the operation it performs is a `reset` with an image that fits, which leaves `STATUS = Running` and `PC`
at 0x0200 (R231, R232). Which operation the host performs, and so `State.hostIssues`, is the model's choice, assumption 5. -/
def Obligations.FaultIsSticky : Prop :=
  ∀ (s t : State) (f : Fault), s.status = .faulted f → step s = .next t →
    (t.status = .faulted f ∧ sameCpuState s t) ∨
    (s.phase = .idle ∧ (∃ rom font, s.hostIssues (.reset (some rom) font) ∧ rom.length ≤ 3584) ∧
      t.status = .running ∧ t.pc = 0x0200)

/-- `run` on a faulted block returns the recorded fault and changes nothing of the block (R189, R206). That `response` keeps the answer and
`delivered` is emptied is assumption 14. -/
def Obligations.FaultedRunReturnsFault : Prop :=
  ∀ (micros : Nat) (s : State) (f : Fault), s.status = .faulted f →
    hostRun micros s = .next { s with response := some (.fault f), delivered := [] }

/-! ## Whole-machine rules -/

/-- No instruction reads or writes the accumulators, the controllers' queues, the configuration, the place in the frame or the host's side: from
states that differ only there it does the same and leaves them as they were (R20, R21, R24, R27). -/
def Obligations.HiddenStateIsHidden : Prop :=
  ∀ (i : Instr) (s h t : State), exec i s = .next t →
    t.withHidden s = t ∧ exec i (s.withHidden h) = .next (t.withHidden h)

/-- Every byte outside the bytes an instruction stores to reads as before: outside three bytes from `I` for `bcd`, outside `x + 1` bytes from `I`
for `save`, everywhere for every other instruction (R47). -/
def Obligations.StoresNothingElse : Prop :=
  ∀ (i : Instr) (s t : State), exec i s = .next t → ∀ a, ¬ storesTo i s a → t.byteAt a = s.byteAt a

/-- Only `cls` and `draw` touch the framebuffer, only `draw` the host queue, only `call` and `ret` the stack, only `keyr` `HALT` and `WAKE`, only
`timerw` `DT`, only `soundw` `ST` and its flag; no instruction touches `KEYPAD` (R14 to R19, R169). -/
def Obligations.WhoWritesWhat : Prop :=
  ∀ (i : Instr) (s t : State), exec i s = .next t →
    t.keypad = s.keypad ∧
    (i ≠ .cls → (∀ x y n, i ≠ .draw x y n) → t.fb = s.fb) ∧
    ((∀ x y n, i ≠ .draw x y n) → t.qHost = s.qHost) ∧
    ((∀ nnn, i ≠ .call nnn) → t.stack = s.stack) ∧
    ((∀ nnn, i ≠ .call nnn) → i ≠ .ret → t.sp = s.sp) ∧
    ((∀ x, i ≠ .keyr x) → t.halt = s.halt ∧ t.wake = s.wake) ∧
    ((∀ x, i ≠ .timerw x) → t.dt = s.dt) ∧
    ((∀ x, i ≠ .soundw x) → t.st = s.st ∧ t.stFlag = s.stFlag)

/-- The invariant of the block holds right after reset. -/
def Obligations.InvAtReset : Prop := Inv State.reset

/-- Every step of every agent keeps the invariant of the block: canonical memory, accumulators in [0, 1) and in the format, `HALT` and `WAKE`
never together, `PC` at most 0x10FE, return addresses at most 4096, bounded queues, finished frames. Its clauses on `phase` and on the iteration counts speak of the
model's own fields, assumption 15. -/
def Obligations.StepKeepsInv : Prop :=
  ∀ s t : State, Inv s → step s = .next t → Inv t

/-! ## Slices, and what a step of the host and of a controller performs -/

/-- `read_slice` answers the `count` bytes from `a` in ascending order and `write_slice` writes its bytes there in that order, leaving every other
byte; out of range exactly when `a` plus the number of bytes is above 4096, also for no bytes (R54). The form of the memory is the model's own; that
the fault records `a` and the number of bytes is assumption 23. -/
def Obligations.SlicesInOrder : Prop :=
  ∀ (m : Memory) (a count : Nat) (values : List Byte), Memory.wf m →
    (a + count ≤ 4096 → ∃ bytes, Memory.readSlice m a count = .ok bytes ∧ bytes.length = count ∧
      ∀ k, k < count → bytes[k]? = some (Memory.get m (a + k))) ∧
    (4096 < a + count → Memory.readSlice m a count = .error (.outOfBounds a count)) ∧
    (a + values.length ≤ 4096 → ∃ m', Memory.writeSlice m a values = .ok m' ∧ Memory.wf m' ∧
      (∀ k v, values[k]? = some v → Memory.get m' (a + k) = v) ∧
      ∀ b, b < a ∨ a + values.length ≤ b → Memory.get m' b = Memory.get m b) ∧
    (4096 < a + values.length → Memory.writeSlice m a values = .error (.outOfBounds a values.length))

/-- Between frames a step performs the operation at the head of the host's list, and takes it from there; with an empty list it performs the one
that the free choice gives, as if that had been listed (R193). The list, the count of free values and the choice are the model's own, assumption 5. -/
def Obligations.StepPerformsHostOperation : Prop :=
  ∀ s : State, s.phase = .idle →
    (∀ rest, let u := { s with pending := rest }
      (∀ image font, s.pending = .reset image font :: rest → step s = hostReset image font u) ∧
      (∀ micros, s.pending = .run micros :: rest → step s = hostRun micros u) ∧
      (∀ key pressed, s.pending = .setKey key pressed :: rest → step s = hostSetKey key pressed u) ∧
      (∀ writable, s.pending = .dumpMemory writable :: rest → step s = hostDump writable u) ∧
      (∀ c bits, s.pending = .setBias c bits :: rest → step s = hostSetBias c bits u) ∧
      (∀ mode, s.pending = .setDispatch mode :: rest → step s = hostSetDispatch mode u) ∧
      (∀ video audio, s.pending = .setCallbacks video audio :: rest → step s = hostSetCallbacks video audio u)) ∧
    (s.pending = [] → step s = step { s with pending := [Config.hostOp s.draws], draws := s.draws + 1 })

/-- Inside a frame a step is one atomic step of the controller that is picked (R179, R180, R222): Sound and Timer perform a tick for each iteration
left; with none left, a controller takes the event at the head of its queue, the CPU an `Input` event with its effect (R181), and a `Tick(n)`
leaves it n iterations. What the CPU does with an iteration is StepRunsDecoded. The iteration counts, and that taking a `Tick` is a
step of its own, are the model's own, assumption 15. -/
def Obligations.StepDrainsQueues : Prop :=
  ∀ s u : State, s.phase = .dispatch →
    (pickController s = some (.timer, u) →
      (∀ n, u.leftTimer = n + 1 → step s = .next (timerTick { u with leftTimer := n })) ∧
      ∀ n q, u.leftTimer = 0 → u.qTimer = n :: q → step s = .next { u with qTimer := q, leftTimer := n }) ∧
    (pickController s = some (.sound, u) →
      (∀ n, u.leftSound = n + 1 → step s = .next (soundTick { u with leftSound := n })) ∧
      ∀ n q, u.leftSound = 0 → u.qSound = n :: q → step s = .next { u with qSound := q, leftSound := n }) ∧
    (pickController s = some (.cpu, u) →
      (∀ n, u.leftCpu = n + 1 → step s = cpuCycle { u with leftCpu := n }) ∧
      (∀ n q, u.leftCpu = 0 → u.qCpu = .tick n :: q → step s = .next { u with qCpu := q, leftCpu := n }) ∧
      ∀ key pressed q, u.leftCpu = 0 → u.qCpu = .input key pressed :: q →
        step s = .next (inputEvent key pressed { u with qCpu := q }))

/-- `dump_memory` answers the 4096 bytes of `MEM` in address order, or `HostIO` where the host's writer fails, and changes nothing of the block (R191).
A change of configuration sets what it names and nothing else; a bias is refused exactly when its bits are those of a negative number, an
infinity or NaN, and otherwise it is the number that they stand for in binary64 (R173, R174, R192), held in units of which 1.0 has
`F64.oneUnits` (assumption 7). That a bias is given as bits, and minus zero is accepted as 0, is assumption 8; that `response` keeps the
answer and `delivered` is emptied is assumption 14; that the writer's success is part of the operation assumption 16; that the configuration can
change in every `STATUS` assumption 19. -/
def Obligations.DumpAndConfigure : Prop :=
  (∀ bits : BitVec 64,
    let exponent := bits.toNat / 2 ^ 52 % 2 ^ 11
    let fraction := bits.toNat % 2 ^ 52
    ((exponent = 2047 ∨ (bits.getLsbD 63 = true ∧ (exponent ≠ 0 ∨ fraction ≠ 0))) → F64.ofBits bits = none) ∧
    (exponent ≠ 2047 → (bits.getLsbD 63 = false ∨ (exponent = 0 ∧ fraction = 0)) →
      F64.ofBits bits = some ⟨if exponent = 0 then fraction else (2 ^ 52 + fraction) * 2 ^ (exponent - 1)⟩)) ∧
  F64.ofBits 0x3FF0000000000000 = some ⟨F64.oneUnits⟩ ∧
  ∀ s : State,
    (s.status ≠ .uninitialized →
      (∃ bytes, hostDump true s = .next { s with response := some (.image bytes), delivered := [] } ∧
        bytes.length = 4096 ∧ ∀ a, a < 4096 → bytes[a]? = some (s.byteAt a)) ∧
      ∃ c, hostDump false s = .next { s with response := some (.hostIO c), delivered := [] }) ∧
    (∀ mode, hostSetDispatch mode s = .next { s with dispatchMode := mode, response := some .ok, delivered := [] }) ∧
    (∀ video audio, hostSetCallbacks video audio s =
      .next { s with videoAttached := video, audioAttached := audio, response := some .ok, delivered := [] }) ∧
    ∀ c bits,
      (∀ b, F64.ofBits bits = some b → ∃ t, hostSetBias c bits s = .next t ∧
        t = { s with
          biasCpu := t.biasCpu, biasSound := t.biasSound, biasTimer := t.biasTimer
          response := some .ok, delivered := [] } ∧
        ∀ d, t.bias d = if d = c then b else s.bias d) ∧
      (F64.ofBits bits = none → hostSetBias c bits s = .refused (.badBias c))
end

