-- ==== Sys2Proof/Laws/Clock.lean ====
section
/-!
SUPPORT. Laws of the number format and of the accumulators (46_clock_and_events.md R170 to R174): what rounding answers is a number of the format,
a number of the format is rounded to itself, a common factor cancels, and the remainder that `consume_whole` leaves is a number of the format.
-/

namespace Sys2Proof.Machine

theorem F64.oneUnits_eq : F64.oneUnits = 2 ^ 1074 := by
  have h : ∀ a b c d e : Nat, 2 ^ a * 2 ^ b * 2 ^ c * 2 ^ d * 2 ^ e = 2 ^ (a + b + c + d + e) := by
    intro a b c d e
    rw [← Nat.pow_add, ← Nat.pow_add, ← Nat.pow_add, ← Nat.pow_add]
  exact h 256 256 256 256 50

theorem F64.oneUnits_pos : 0 < F64.oneUnits := by
  rw [F64.oneUnits_eq]
  exact Nat.two_pow_pos 1074

theorem F64.quantum_pos (k : Nat) : 0 < F64.quantum k := by
  unfold F64.quantum
  split
  · exact Nat.one_pos
  · exact Nat.two_pow_pos _

/-- A number of at most 53 significant bits is a number of the format. -/
theorem F64.representable_mul_two_pow {m : Nat} (hm : m ≤ 2 ^ 53) (j : Nat) : F64.representable ⟨m * 2 ^ j⟩ := by
  show F64.quantum (m * 2 ^ j) ∣ m * 2 ^ j
  unfold F64.quantum
  split
  · exact Nat.one_dvd _
  · next hbig =>
    have hne : m * 2 ^ j ≠ 0 := by omega
    rcases Nat.lt_or_eq_of_le hm with hlt | heq
    · have h1 : m * 2 ^ j < 2 ^ (53 + j) := by
        rw [Nat.pow_add]
        exact Nat.mul_lt_mul_of_pos_right hlt (Nat.two_pow_pos j)
      have h2 := (Nat.log2_lt hne).mpr h1
      exact Nat.dvd_trans (Nat.pow_dvd_pow 2 (by omega)) (Nat.dvd_mul_left _ _)
    · subst heq
      rw [← Nat.pow_add, Nat.log2_two_pow]
      exact Nat.pow_dvd_pow 2 (by omega)

/-- At a magnitude of `k` units the format keeps at most 53 bits. -/
theorem F64.div_quantum_lt (k : Nat) : k / F64.quantum k < 2 ^ 53 := by
  unfold F64.quantum
  split
  · rw [Nat.div_one]; assumption
  · next h =>
    have h1 : k < 2 ^ (k.log2 + 1) := Nat.lt_log2_self
    have h2 : 52 ≤ k.log2 := by
      by_contra hc
      have : k < 2 ^ 53 := Nat.lt_of_lt_of_le h1 (Nat.pow_le_pow_right (by decide) (by omega))
      exact h this
    rw [Nat.div_lt_iff_lt_mul (Nat.two_pow_pos _), ← Nat.pow_add]
    rwa [show 53 + (k.log2 - 52) = k.log2 + 1 by omega]

/-- The distance of the format at a magnitude is a power of two. -/
theorem F64.quantum_eq_pow (k : Nat) : ∃ j, F64.quantum k = 2 ^ j := by
  unfold F64.quantum
  split
  · exact ⟨0, rfl⟩
  · exact ⟨_, rfl⟩

/-- What rounding answers is a number of the format (R174). -/
theorem F64.round_representable (num den : Nat) : (F64.round num den).representable := by
  obtain ⟨j, hj⟩ := F64.quantum_eq_pow (num / den)
  have hlo : num / (den * F64.quantum (num / den)) < 2 ^ 53 := by
    rw [← Nat.div_div_eq_div_mul]
    exact F64.div_quantum_lt _
  unfold F64.round
  simp only [hj] at hlo ⊢
  split
  · exact F64.representable_mul_two_pow (Nat.le_of_lt hlo) j
  · exact F64.representable_mul_two_pow hlo j

/-- Rounding depends on the quotient alone: a common factor cancels. -/
theorem F64.round_mul_right (num den : Nat) {k : Nat} (hk : 0 < k) : F64.round (num * k) (den * k) = F64.round num den := by
  unfold F64.round
  simp only [Nat.mul_div_mul_right num den hk]
  generalize F64.quantum (num / den) = q
  rw [show den * k * q = den * q * k by rw [Nat.mul_right_comm]]
  simp only [Nat.mul_div_mul_right num (den * q) hk, Nat.mul_mod_mul_right]
  have h1 : 2 * (num % (den * q) * k) < den * q * k ↔ 2 * (num % (den * q)) < den * q := by
    rw [← Nat.mul_assoc, Nat.mul_lt_mul_right hk]
  have h2 : 2 * (num % (den * q) * k) = den * q * k ↔ 2 * (num % (den * q)) = den * q := by
    rw [← Nat.mul_assoc, Nat.mul_left_inj (Nat.ne_of_gt hk)]
  simp only [h1, h2]

/-- A number of the format is rounded to itself. -/
theorem F64.round_exact {a : F64} (h : a.representable) : F64.round a.units 1 = a := by
  obtain ⟨k⟩ := a
  have h : F64.quantum k ∣ k := h
  unfold F64.round
  simp only [Nat.div_one, Nat.one_mul, Nat.mod_eq_zero_of_dvd h, Nat.mul_zero, Nat.div_mul_cancel h]
  rw [if_pos (.inl (F64.quantum_pos k))]

/-- A natural number of at most 53 bits is held exactly. -/
theorem F64.ofNat_exact {n : Nat} (h : n ≤ 2 ^ 53) : F64.ofNat n = ⟨n * F64.oneUnits⟩ :=
  F64.round_exact (F64.oneUnits_eq ▸ F64.representable_mul_two_pow h 1074)

theorem F64.zero_representable : F64.zero.representable := Nat.dvd_zero _

/-- The remainder below 1 of a number of the format is a number of the format (R172). -/
theorem F64.fract_representable {a : F64} (h : a.representable) : (F64.fract a).representable := by
  obtain ⟨k⟩ := a
  have h : F64.quantum k ∣ k := h
  show F64.quantum (k % F64.oneUnits) ∣ k % F64.oneUnits
  rw [F64.oneUnits_eq]
  by_cases hk : k < 2 ^ 1074
  · rwa [Nat.mod_eq_of_lt hk]
  · have hk : 2 ^ 1074 ≤ k := Nat.le_of_not_lt hk
    have hne : k ≠ 0 := by
      intro h0
      rw [h0] at hk
      exact absurd hk (Nat.not_le.mpr (Nat.two_pow_pos 1074))
    have hlog : 1074 ≤ k.log2 := (Nat.le_log2 hne).mpr hk
    have hq : F64.quantum k = 2 ^ (k.log2 - 52) := if_neg fun hlt => by
      have : 2 ^ 53 ≤ 2 ^ 1074 := Nat.pow_le_pow_right (by decide) (by decide)
      omega
    rw [hq] at h
    by_cases hj : 1074 ≤ k.log2 - 52
    · have : k % 2 ^ 1074 = 0 := Nat.mod_eq_zero_of_dvd (Nat.dvd_trans (Nat.pow_dvd_pow 2 hj) h)
      rw [this]
      exact Nat.dvd_zero _
    · have hd : 2 ^ (k.log2 - 52) ∣ k % 2 ^ 1074 :=
        (Nat.dvd_mod_iff (Nat.pow_dvd_pow 2 (by omega))).mpr h
      obtain ⟨m, hm⟩ := hd
      have hlt : k % 2 ^ 1074 < 2 ^ 1074 := Nat.mod_lt _ (Nat.two_pow_pos 1074)
      have hmle : m ≤ 2 ^ 53 := by
        by_contra hc
        have h1 : 2 ^ (k.log2 - 52) * 2 ^ 53 ≤ 2 ^ (k.log2 - 52) * m := Nat.mul_le_mul_left _ (by omega)
        rw [← Nat.pow_add] at h1
        have h2 : 2 ^ 1074 ≤ 2 ^ (k.log2 - 52 + 53) := Nat.pow_le_pow_right (by decide) (by omega)
        omega
      rw [hm, Nat.mul_comm]
      exact F64.representable_mul_two_pow hmle _

/-- A bias that the host can set is a number of the format (R173, R192). -/
theorem F64.ofBits_representable {bits : BitVec 64} {b : F64} (h : F64.ofBits bits = some b) : b.representable := by
  have hf := (bits.extractLsb' 0 52).isLt
  unfold F64.ofBits at h
  simp only at h
  split at h
  · cases h
  · split at h
    · cases h
    · split at h
      · cases h
        have := F64.representable_mul_two_pow (m := (bits.extractLsb' 0 52).toNat) (by omega) 0
        simpa using this
      · cases h
        exact F64.representable_mul_two_pow (by omega) _

end Sys2Proof.Machine
end

