-- ==== Sys2Proof/Laws/Memory.lean ====
section
/-!
SUPPORT. Laws of memory (20_memory.md R46 to R54): a read after a write, every other byte left alone, the canonical form kept by every
memory operation, and what each access answers.
-/

namespace Sys2Proof.Machine

@[simp] theorem Memory.get_nil (a : Nat) : Memory.get [] a = bootByte a := rfl

theorem Memory.wf_nil : Memory.wf [] := ⟨List.Pairwise.nil, fun _ h => absurd h List.not_mem_nil⟩

theorem Memory.wf_tail {c : Host.Cell} {m : Memory} (h : Memory.wf (c :: m)) : Memory.wf m :=
  ⟨(List.pairwise_cons.mp h.1).2, fun d hd => h.2 d (List.mem_cons_of_mem c hd)⟩

/-- Below every listed address a memory reads as if unlisted. -/
theorem Memory.get_below {m : Memory} {a : Nat} (h : ∀ c ∈ m, a < c.1) : Memory.get m a = bootByte a := by
  induction m with
  | nil => rfl
  | cons c m ih =>
    have hc := h c List.mem_cons_self
    simp only [Memory.get]
    rw [if_neg (by omega)]
    exact ih fun d hd => h d (List.mem_cons_of_mem c hd)

/-- The byte written is the byte read back. -/
theorem Memory.get_set_same {m : Memory} (h : Memory.wf m) (a : Nat) (v : Byte) :
    Memory.get (Memory.set m a v) a = v := by
  induction m with
  | nil => by_cases hv : v = bootByte a <;> simp [Memory.set, Memory.get, hv]
  | cons c m ih =>
    obtain ⟨b, w⟩ := c
    have hlt : ∀ d ∈ m, b < d.1 := (List.pairwise_cons.mp h.1).1
    rcases Nat.lt_trichotomy a b with hab | hab | hab
    · by_cases hv : v = bootByte a
      · have : Memory.get ((b, w) :: m) a = bootByte a :=
          Memory.get_below fun d hd => by
            rcases List.mem_cons.mp hd with rfl | hd
            · exact hab
            · exact Nat.lt_trans hab (hlt d hd)
        simp [Memory.set, hab, hv, this]
      · simp [Memory.set, Memory.get, hab, hv]
    · subst hab
      by_cases hv : v = bootByte a
      · simp [Memory.set, hv, Memory.get_below hlt]
      · simp [Memory.set, Memory.get, hv]
    · have h1 : ¬ a < b := by omega
      have h2 : a ≠ b := by omega
      simp [Memory.set, Memory.get, h1, h2, ih (Memory.wf_tail h)]

/-- A write leaves every other byte as it was, whatever the list. -/
theorem Memory.get_set_ne (m : Memory) {a b : Nat} (v : Byte) (h : b ≠ a) :
    Memory.get (Memory.set m a v) b = Memory.get m b := by
  induction m with
  | nil => by_cases hv : v = bootByte a <;> simp [Memory.set, Memory.get, hv, h]
  | cons c m ih =>
    obtain ⟨d, w⟩ := c
    rcases Nat.lt_trichotomy a d with had | had | had
    · by_cases hv : v = bootByte a <;> simp [Memory.set, Memory.get, had, hv, h]
    · subst had
      by_cases hv : v = bootByte a <;> simp [Memory.set, Memory.get, hv, h]
    · have h1 : ¬ a < d := by omega
      have h2 : a ≠ d := by omega
      simp [Memory.set, Memory.get, h1, h2, ih]

/-- The cells of a memory after a write are the old ones or the one written. -/
theorem Memory.mem_set {m : Memory} {a : Nat} {v : Byte} {c : Host.Cell} (h : c ∈ Memory.set m a v) :
    c ∈ m ∨ (c = (a, v) ∧ v ≠ bootByte a) := by
  induction m with
  | nil =>
    by_cases hv : v = bootByte a
    · simp [Memory.set, hv] at h
    · simp only [Memory.set, if_neg hv, List.mem_singleton] at h
      exact .inr ⟨h, hv⟩
  | cons d m ih =>
    obtain ⟨b, w⟩ := d
    simp only [Memory.set] at h
    split at h
    · split at h
      · exact .inl h
      · next hv =>
        rcases List.mem_cons.mp h with h | h
        · exact .inr ⟨h, hv⟩
        · exact .inl h
    · split at h
      · split at h
        · exact .inl (List.mem_cons_of_mem _ h)
        · next hv =>
          rcases List.mem_cons.mp h with h | h
          · exact .inr ⟨h, hv⟩
          · exact .inl (List.mem_cons_of_mem _ h)
      · rcases List.mem_cons.mp h with h | h
        · exact .inl (h ▸ List.mem_cons_self)
        · rcases ih h with h | h
          · exact .inl (List.mem_cons_of_mem _ h)
          · exact .inr h

/-- A write of a byte of `MEM` keeps the canonical form. -/
theorem Memory.wf_set {m : Memory} (h : Memory.wf m) {a : Nat} (v : Byte) (ha : a < Config.memSize) :
    Memory.wf (Memory.set m a v) := by
  refine ⟨?_, fun c hc => ?_⟩
  · induction m with
    | nil => by_cases hv : v = bootByte a <;> simp [Memory.set, hv]
    | cons d m ih =>
      obtain ⟨b, w⟩ := d
      obtain ⟨hlt, hm⟩ := List.pairwise_cons.mp h.1
      simp only [Memory.set]
      split
      · next hab =>
        split
        · exact h.1
        · refine List.pairwise_cons.mpr ⟨fun c hc => ?_, h.1⟩
          rcases List.mem_cons.mp hc with rfl | hc
          · exact hab
          · exact Nat.lt_trans hab (hlt c hc)
      · split
        · next hab =>
          subst hab
          split
          · exact hm
          · exact List.pairwise_cons.mpr ⟨hlt, hm⟩
        · refine List.pairwise_cons.mpr ⟨fun c hc => ?_, ih (Memory.wf_tail h)⟩
          rcases Memory.mem_set hc with hc | ⟨rfl, -⟩
          · exact hlt c hc
          · show b < a
            omega
  · rcases Memory.mem_set hc with hc | ⟨rfl, hv⟩
    · exact h.2 c hc
    · exact ⟨ha, hv⟩

theorem inRange_iff (a n : Nat) : inRange a n = true ↔ a + n ≤ 4096 := by simp [inRange]

/-- What a byte read answers (R48, R53). -/
theorem Memory.read8_cases (m : Memory) (a : Nat) :
    (a < 4096 ∧ Memory.read8 m a = .ok (Memory.get m a)) ∨
    (4096 ≤ a ∧ Memory.read8 m a = .error (.outOfBounds a 1)) := by
  by_cases h : a < 4096
  · exact .inl ⟨h, if_pos ((inRange_iff a 1).mpr (by omega))⟩
  · exact .inr ⟨by omega, if_neg (fun h' => by have := (inRange_iff a 1).mp h'; omega)⟩

theorem Memory.read8_ok {m : Memory} {a : Nat} (h : a < 4096) : Memory.read8 m a = .ok (Memory.get m a) := by
  rcases Memory.read8_cases m a with h' | h'
  · exact h'.2
  · omega

theorem Memory.read8_error {m : Memory} {a : Nat} (h : 4096 ≤ a) :
    Memory.read8 m a = .error (.outOfBounds a 1) := by
  rcases Memory.read8_cases m a with h' | h'
  · omega
  · exact h'.2

/-- What a byte write answers (R48, R53). -/
theorem Memory.write8_cases (m : Memory) (a : Nat) (v : Byte) :
    (a < 4096 ∧ Memory.write8 m a v = .ok (Memory.set m a v)) ∨
    (4096 ≤ a ∧ Memory.write8 m a v = .error (.outOfBounds a 1)) := by
  by_cases h : a < 4096
  · exact .inl ⟨h, if_pos ((inRange_iff a 1).mpr (by omega))⟩
  · exact .inr ⟨by omega, if_neg (fun h' => by have := (inRange_iff a 1).mp h'; omega)⟩

theorem Memory.write8_ok {m : Memory} {a : Nat} (v : Byte) (h : a < 4096) :
    Memory.write8 m a v = .ok (Memory.set m a v) := by
  rcases Memory.write8_cases m a v with h' | h'
  · exact h'.2
  · omega

theorem Memory.write8_error {m : Memory} {a : Nat} (v : Byte) (h : 4096 ≤ a) :
    Memory.write8 m a v = .error (.outOfBounds a 1) := by
  rcases Memory.write8_cases m a v with h' | h'
  · omega
  · exact h'.2

/-- What a 16-bit read answers (R49, R53). -/
theorem Memory.read16_cases (m : Memory) (a : Nat) :
    (a ≤ 4094 ∧ Memory.read16 m a = .ok (wordOfBytes (Memory.get m a) (Memory.get m (a + 1)))) ∨
    (4095 ≤ a ∧ Memory.read16 m a = .error (.outOfBounds a 2)) := by
  by_cases h : a ≤ 4094
  · exact .inl ⟨h, if_pos ((inRange_iff a 2).mpr (by omega))⟩
  · exact .inr ⟨by omega, if_neg (fun h' => by have := (inRange_iff a 2).mp h'; omega)⟩

/-- What a 16-bit write answers (R50, R53). -/
theorem Memory.write16_cases (m : Memory) (a : Nat) (v : Word) :
    (a ≤ 4094 ∧ Memory.write16 m a v = .ok (Memory.set (Memory.set m a (highByte v)) (a + 1) (lowByte v))) ∨
    (4095 ≤ a ∧ Memory.write16 m a v = .error (.outOfBounds a 2)) := by
  by_cases h : a ≤ 4094
  · exact .inl ⟨h, if_pos ((inRange_iff a 2).mpr (by omega))⟩
  · exact .inr ⟨by omega, if_neg (fun h' => by have := (inRange_iff a 2).mp h'; omega)⟩

/-- A byte write keeps the canonical form. -/
theorem Memory.wf_write8 {m m' : Memory} (h : Memory.wf m) {a : Nat} {v : Byte} (hw : Memory.write8 m a v = .ok m') :
    Memory.wf m' := by
  rcases Memory.write8_cases m a v with ⟨ha, he⟩ | ⟨_, he⟩
  · rw [he] at hw
    cases hw
    exact Memory.wf_set h v ha
  · rw [he] at hw
    cases hw

/-- A 16-bit write keeps the canonical form. -/
theorem Memory.wf_write16 {m m' : Memory} (h : Memory.wf m) {a : Nat} {v : Word}
    (hw : Memory.write16 m a v = .ok m') : Memory.wf m' := by
  rcases Memory.write16_cases m a v with ⟨ha, he⟩ | ⟨_, he⟩
  · rw [he] at hw
    cases hw
    exact Memory.wf_set (Memory.wf_set h _ (show a < 4096 by omega)) _ (show a + 1 < 4096 by omega)
  · rw [he] at hw
    cases hw

/-- Replacing bytes inside `MEM` in ascending order keeps the form, and each byte is the new one or the old one. -/
theorem Memory.setAll_spec {bs : List Byte} : ∀ {m : Memory} {a : Nat}, Memory.wf m → a + bs.length ≤ 4096 →
    Memory.wf (Memory.setAll m a bs) ∧
    ∀ b, Memory.get (Memory.setAll m a bs) b = if a ≤ b ∧ b < a + bs.length then bs.getD (b - a) 0 else Memory.get m b := by
  induction bs with
  | nil => exact fun hm _ => ⟨hm, fun b => by rw [if_neg (by simp only [List.length_nil]; omega)]; rfl⟩
  | cons c bs ih =>
    intro m a hm h
    simp only [List.length_cons] at h ⊢
    obtain ⟨hwf, hget⟩ := ih (Memory.wf_set hm c (show a < 4096 by omega)) (a := a + 1) (by omega)
    refine ⟨hwf, fun b => ?_⟩
    rw [Memory.setAll, hget b]
    by_cases h1 : a + 1 ≤ b ∧ b < a + 1 + bs.length
    · rw [if_pos h1, if_pos (by omega)]
      obtain ⟨k, hk⟩ : ∃ k, b - a = k + 1 := ⟨b - a - 1, by omega⟩
      rw [hk, show b - (a + 1) = k by omega]
      rfl
    · rw [if_neg h1]
      by_cases h2 : b = a
      · subst h2
        rw [Memory.get_set_same hm, if_pos (by omega), Nat.sub_self]
        rfl
      · rw [Memory.get_set_ne m c h2, if_neg (by omega)]

/-- Everything a slice write that succeeds can do (R54): it fits, the form is kept, and each byte is the slice's or the old one. -/
theorem Memory.writeSlice_ok {bs : List Byte} {m m' : Memory} {a : Nat} (hm : Memory.wf m)
    (h : Memory.writeSlice m a bs = .ok m') :
    Memory.wf m' ∧ a + bs.length ≤ 4096 ∧
    ∀ b, Memory.get m' b = if a ≤ b ∧ b < a + bs.length then bs.getD (b - a) 0 else Memory.get m b := by
  unfold Memory.writeSlice at h
  split at h
  · next hr =>
    cases h
    have hr : a + bs.length ≤ 4096 := of_decide_eq_true hr
    obtain ⟨hwf, hget⟩ := Memory.setAll_spec hm hr
    exact ⟨hwf, hr, hget⟩
  · cases h

/-- A slice write that fits succeeds (R54). -/
theorem Memory.writeSlice_fits {bs : List Byte} (m : Memory) {a : Nat} (h : a + bs.length ≤ 4096) :
    ∃ m', Memory.writeSlice m a bs = .ok m' :=
  ⟨_, if_pos (decide_eq_true h)⟩

/-- A slice read inside `MEM` answers the bytes in ascending order (R54). -/
theorem Memory.readSlice_ok {count : Nat} (m : Memory) {a : Nat} (h : a + count ≤ 4096) :
    Memory.readSlice m a count = .ok ((List.range count).map fun k => Memory.get m (a + k)) :=
  if_pos (decide_eq_true h)

end Sys2Proof.Machine
end

