-- ==== Sys2Proof/Laws/State.lean ====
section
/-!
SUPPORT. One lemma per field per update of State, each true by unfolding the update once, so that no later proof unfolds a record update.
-/

namespace Sys2Proof.Machine

variable (s : State)

@[simp] theorem State.setReg_v (x : Nibble) (b : Byte) : (s.setReg x b).v = s.v.set x.toNat b x.isLt := rfl
@[simp] theorem State.setReg_pc (x : Nibble) (b : Byte) : (s.setReg x b).pc = s.pc := rfl
@[simp] theorem State.setReg_i (x : Nibble) (b : Byte) : (s.setReg x b).i = s.i := rfl
@[simp] theorem State.setReg_stack (x : Nibble) (b : Byte) : (s.setReg x b).stack = s.stack := rfl
@[simp] theorem State.setReg_sp (x : Nibble) (b : Byte) : (s.setReg x b).sp = s.sp := rfl
@[simp] theorem State.setReg_keypad (x : Nibble) (b : Byte) : (s.setReg x b).keypad = s.keypad := rfl
@[simp] theorem State.setReg_halt (x : Nibble) (b : Byte) : (s.setReg x b).halt = s.halt := rfl
@[simp] theorem State.setReg_wake (x : Nibble) (b : Byte) : (s.setReg x b).wake = s.wake := rfl
@[simp] theorem State.setReg_fb (x : Nibble) (b : Byte) : (s.setReg x b).fb = s.fb := rfl
@[simp] theorem State.setReg_dt (x : Nibble) (b : Byte) : (s.setReg x b).dt = s.dt := rfl
@[simp] theorem State.setReg_st (x : Nibble) (b : Byte) : (s.setReg x b).st = s.st := rfl
@[simp] theorem State.setReg_stFlag (x : Nibble) (b : Byte) : (s.setReg x b).stFlag = s.stFlag := rfl
@[simp] theorem State.setReg_mem (x : Nibble) (b : Byte) : (s.setReg x b).mem = s.mem := rfl
@[simp] theorem State.setReg_accCpu (x : Nibble) (b : Byte) : (s.setReg x b).accCpu = s.accCpu := rfl
@[simp] theorem State.setReg_accSound (x : Nibble) (b : Byte) : (s.setReg x b).accSound = s.accSound := rfl
@[simp] theorem State.setReg_accTimer (x : Nibble) (b : Byte) : (s.setReg x b).accTimer = s.accTimer := rfl
@[simp] theorem State.setReg_qCpu (x : Nibble) (b : Byte) : (s.setReg x b).qCpu = s.qCpu := rfl
@[simp] theorem State.setReg_qSound (x : Nibble) (b : Byte) : (s.setReg x b).qSound = s.qSound := rfl
@[simp] theorem State.setReg_qTimer (x : Nibble) (b : Byte) : (s.setReg x b).qTimer = s.qTimer := rfl
@[simp] theorem State.setReg_qHost (x : Nibble) (b : Byte) : (s.setReg x b).qHost = s.qHost := rfl
@[simp] theorem State.setReg_status (x : Nibble) (b : Byte) : (s.setReg x b).status = s.status := rfl
@[simp] theorem State.setReg_biasCpu (x : Nibble) (b : Byte) : (s.setReg x b).biasCpu = s.biasCpu := rfl
@[simp] theorem State.setReg_biasSound (x : Nibble) (b : Byte) : (s.setReg x b).biasSound = s.biasSound := rfl
@[simp] theorem State.setReg_biasTimer (x : Nibble) (b : Byte) : (s.setReg x b).biasTimer = s.biasTimer := rfl
@[simp] theorem State.setReg_dispatchMode (x : Nibble) (b : Byte) : (s.setReg x b).dispatchMode = s.dispatchMode := rfl
@[simp] theorem State.setReg_videoAttached (x : Nibble) (b : Byte) : (s.setReg x b).videoAttached = s.videoAttached := rfl
@[simp] theorem State.setReg_audioAttached (x : Nibble) (b : Byte) : (s.setReg x b).audioAttached = s.audioAttached := rfl
@[simp] theorem State.setReg_phase (x : Nibble) (b : Byte) : (s.setReg x b).phase = s.phase := rfl
@[simp] theorem State.setReg_leftCpu (x : Nibble) (b : Byte) : (s.setReg x b).leftCpu = s.leftCpu := rfl
@[simp] theorem State.setReg_leftSound (x : Nibble) (b : Byte) : (s.setReg x b).leftSound = s.leftSound := rfl
@[simp] theorem State.setReg_leftTimer (x : Nibble) (b : Byte) : (s.setReg x b).leftTimer = s.leftTimer := rfl
@[simp] theorem State.setReg_pending (x : Nibble) (b : Byte) : (s.setReg x b).pending = s.pending := rfl
@[simp] theorem State.setReg_response (x : Nibble) (b : Byte) : (s.setReg x b).response = s.response := rfl
@[simp] theorem State.setReg_delivered (x : Nibble) (b : Byte) : (s.setReg x b).delivered = s.delivered := rfl
@[simp] theorem State.setReg_draws (x : Nibble) (b : Byte) : (s.setReg x b).draws = s.draws := rfl

@[simp] theorem State.setPc_v (p : Word) : (s.setPc p).v = s.v := rfl
@[simp] theorem State.setPc_pc (p : Word) : (s.setPc p).pc = p := rfl
@[simp] theorem State.setPc_i (p : Word) : (s.setPc p).i = s.i := rfl
@[simp] theorem State.setPc_stack (p : Word) : (s.setPc p).stack = s.stack := rfl
@[simp] theorem State.setPc_sp (p : Word) : (s.setPc p).sp = s.sp := rfl
@[simp] theorem State.setPc_keypad (p : Word) : (s.setPc p).keypad = s.keypad := rfl
@[simp] theorem State.setPc_halt (p : Word) : (s.setPc p).halt = s.halt := rfl
@[simp] theorem State.setPc_wake (p : Word) : (s.setPc p).wake = s.wake := rfl
@[simp] theorem State.setPc_fb (p : Word) : (s.setPc p).fb = s.fb := rfl
@[simp] theorem State.setPc_dt (p : Word) : (s.setPc p).dt = s.dt := rfl
@[simp] theorem State.setPc_st (p : Word) : (s.setPc p).st = s.st := rfl
@[simp] theorem State.setPc_stFlag (p : Word) : (s.setPc p).stFlag = s.stFlag := rfl
@[simp] theorem State.setPc_mem (p : Word) : (s.setPc p).mem = s.mem := rfl
@[simp] theorem State.setPc_accCpu (p : Word) : (s.setPc p).accCpu = s.accCpu := rfl
@[simp] theorem State.setPc_accSound (p : Word) : (s.setPc p).accSound = s.accSound := rfl
@[simp] theorem State.setPc_accTimer (p : Word) : (s.setPc p).accTimer = s.accTimer := rfl
@[simp] theorem State.setPc_qCpu (p : Word) : (s.setPc p).qCpu = s.qCpu := rfl
@[simp] theorem State.setPc_qSound (p : Word) : (s.setPc p).qSound = s.qSound := rfl
@[simp] theorem State.setPc_qTimer (p : Word) : (s.setPc p).qTimer = s.qTimer := rfl
@[simp] theorem State.setPc_qHost (p : Word) : (s.setPc p).qHost = s.qHost := rfl
@[simp] theorem State.setPc_status (p : Word) : (s.setPc p).status = s.status := rfl
@[simp] theorem State.setPc_biasCpu (p : Word) : (s.setPc p).biasCpu = s.biasCpu := rfl
@[simp] theorem State.setPc_biasSound (p : Word) : (s.setPc p).biasSound = s.biasSound := rfl
@[simp] theorem State.setPc_biasTimer (p : Word) : (s.setPc p).biasTimer = s.biasTimer := rfl
@[simp] theorem State.setPc_dispatchMode (p : Word) : (s.setPc p).dispatchMode = s.dispatchMode := rfl
@[simp] theorem State.setPc_videoAttached (p : Word) : (s.setPc p).videoAttached = s.videoAttached := rfl
@[simp] theorem State.setPc_audioAttached (p : Word) : (s.setPc p).audioAttached = s.audioAttached := rfl
@[simp] theorem State.setPc_phase (p : Word) : (s.setPc p).phase = s.phase := rfl
@[simp] theorem State.setPc_leftCpu (p : Word) : (s.setPc p).leftCpu = s.leftCpu := rfl
@[simp] theorem State.setPc_leftSound (p : Word) : (s.setPc p).leftSound = s.leftSound := rfl
@[simp] theorem State.setPc_leftTimer (p : Word) : (s.setPc p).leftTimer = s.leftTimer := rfl
@[simp] theorem State.setPc_pending (p : Word) : (s.setPc p).pending = s.pending := rfl
@[simp] theorem State.setPc_response (p : Word) : (s.setPc p).response = s.response := rfl
@[simp] theorem State.setPc_delivered (p : Word) : (s.setPc p).delivered = s.delivered := rfl
@[simp] theorem State.setPc_draws (p : Word) : (s.setPc p).draws = s.draws := rfl

@[simp] theorem State.setI_v (a : Word) : (s.setI a).v = s.v := rfl
@[simp] theorem State.setI_pc (a : Word) : (s.setI a).pc = s.pc := rfl
@[simp] theorem State.setI_i (a : Word) : (s.setI a).i = a := rfl
@[simp] theorem State.setI_stack (a : Word) : (s.setI a).stack = s.stack := rfl
@[simp] theorem State.setI_sp (a : Word) : (s.setI a).sp = s.sp := rfl
@[simp] theorem State.setI_keypad (a : Word) : (s.setI a).keypad = s.keypad := rfl
@[simp] theorem State.setI_halt (a : Word) : (s.setI a).halt = s.halt := rfl
@[simp] theorem State.setI_wake (a : Word) : (s.setI a).wake = s.wake := rfl
@[simp] theorem State.setI_fb (a : Word) : (s.setI a).fb = s.fb := rfl
@[simp] theorem State.setI_dt (a : Word) : (s.setI a).dt = s.dt := rfl
@[simp] theorem State.setI_st (a : Word) : (s.setI a).st = s.st := rfl
@[simp] theorem State.setI_stFlag (a : Word) : (s.setI a).stFlag = s.stFlag := rfl
@[simp] theorem State.setI_mem (a : Word) : (s.setI a).mem = s.mem := rfl
@[simp] theorem State.setI_accCpu (a : Word) : (s.setI a).accCpu = s.accCpu := rfl
@[simp] theorem State.setI_accSound (a : Word) : (s.setI a).accSound = s.accSound := rfl
@[simp] theorem State.setI_accTimer (a : Word) : (s.setI a).accTimer = s.accTimer := rfl
@[simp] theorem State.setI_qCpu (a : Word) : (s.setI a).qCpu = s.qCpu := rfl
@[simp] theorem State.setI_qSound (a : Word) : (s.setI a).qSound = s.qSound := rfl
@[simp] theorem State.setI_qTimer (a : Word) : (s.setI a).qTimer = s.qTimer := rfl
@[simp] theorem State.setI_qHost (a : Word) : (s.setI a).qHost = s.qHost := rfl
@[simp] theorem State.setI_status (a : Word) : (s.setI a).status = s.status := rfl
@[simp] theorem State.setI_biasCpu (a : Word) : (s.setI a).biasCpu = s.biasCpu := rfl
@[simp] theorem State.setI_biasSound (a : Word) : (s.setI a).biasSound = s.biasSound := rfl
@[simp] theorem State.setI_biasTimer (a : Word) : (s.setI a).biasTimer = s.biasTimer := rfl
@[simp] theorem State.setI_dispatchMode (a : Word) : (s.setI a).dispatchMode = s.dispatchMode := rfl
@[simp] theorem State.setI_videoAttached (a : Word) : (s.setI a).videoAttached = s.videoAttached := rfl
@[simp] theorem State.setI_audioAttached (a : Word) : (s.setI a).audioAttached = s.audioAttached := rfl
@[simp] theorem State.setI_phase (a : Word) : (s.setI a).phase = s.phase := rfl
@[simp] theorem State.setI_leftCpu (a : Word) : (s.setI a).leftCpu = s.leftCpu := rfl
@[simp] theorem State.setI_leftSound (a : Word) : (s.setI a).leftSound = s.leftSound := rfl
@[simp] theorem State.setI_leftTimer (a : Word) : (s.setI a).leftTimer = s.leftTimer := rfl
@[simp] theorem State.setI_pending (a : Word) : (s.setI a).pending = s.pending := rfl
@[simp] theorem State.setI_response (a : Word) : (s.setI a).response = s.response := rfl
@[simp] theorem State.setI_delivered (a : Word) : (s.setI a).delivered = s.delivered := rfl
@[simp] theorem State.setI_draws (a : Word) : (s.setI a).draws = s.draws := rfl

@[simp] theorem State.setMem_v (m : Memory) : (s.setMem m).v = s.v := rfl
@[simp] theorem State.setMem_pc (m : Memory) : (s.setMem m).pc = s.pc := rfl
@[simp] theorem State.setMem_i (m : Memory) : (s.setMem m).i = s.i := rfl
@[simp] theorem State.setMem_stack (m : Memory) : (s.setMem m).stack = s.stack := rfl
@[simp] theorem State.setMem_sp (m : Memory) : (s.setMem m).sp = s.sp := rfl
@[simp] theorem State.setMem_keypad (m : Memory) : (s.setMem m).keypad = s.keypad := rfl
@[simp] theorem State.setMem_halt (m : Memory) : (s.setMem m).halt = s.halt := rfl
@[simp] theorem State.setMem_wake (m : Memory) : (s.setMem m).wake = s.wake := rfl
@[simp] theorem State.setMem_fb (m : Memory) : (s.setMem m).fb = s.fb := rfl
@[simp] theorem State.setMem_dt (m : Memory) : (s.setMem m).dt = s.dt := rfl
@[simp] theorem State.setMem_st (m : Memory) : (s.setMem m).st = s.st := rfl
@[simp] theorem State.setMem_stFlag (m : Memory) : (s.setMem m).stFlag = s.stFlag := rfl
@[simp] theorem State.setMem_mem (m : Memory) : (s.setMem m).mem = m := rfl
@[simp] theorem State.setMem_accCpu (m : Memory) : (s.setMem m).accCpu = s.accCpu := rfl
@[simp] theorem State.setMem_accSound (m : Memory) : (s.setMem m).accSound = s.accSound := rfl
@[simp] theorem State.setMem_accTimer (m : Memory) : (s.setMem m).accTimer = s.accTimer := rfl
@[simp] theorem State.setMem_qCpu (m : Memory) : (s.setMem m).qCpu = s.qCpu := rfl
@[simp] theorem State.setMem_qSound (m : Memory) : (s.setMem m).qSound = s.qSound := rfl
@[simp] theorem State.setMem_qTimer (m : Memory) : (s.setMem m).qTimer = s.qTimer := rfl
@[simp] theorem State.setMem_qHost (m : Memory) : (s.setMem m).qHost = s.qHost := rfl
@[simp] theorem State.setMem_status (m : Memory) : (s.setMem m).status = s.status := rfl
@[simp] theorem State.setMem_biasCpu (m : Memory) : (s.setMem m).biasCpu = s.biasCpu := rfl
@[simp] theorem State.setMem_biasSound (m : Memory) : (s.setMem m).biasSound = s.biasSound := rfl
@[simp] theorem State.setMem_biasTimer (m : Memory) : (s.setMem m).biasTimer = s.biasTimer := rfl
@[simp] theorem State.setMem_dispatchMode (m : Memory) : (s.setMem m).dispatchMode = s.dispatchMode := rfl
@[simp] theorem State.setMem_videoAttached (m : Memory) : (s.setMem m).videoAttached = s.videoAttached := rfl
@[simp] theorem State.setMem_audioAttached (m : Memory) : (s.setMem m).audioAttached = s.audioAttached := rfl
@[simp] theorem State.setMem_phase (m : Memory) : (s.setMem m).phase = s.phase := rfl
@[simp] theorem State.setMem_leftCpu (m : Memory) : (s.setMem m).leftCpu = s.leftCpu := rfl
@[simp] theorem State.setMem_leftSound (m : Memory) : (s.setMem m).leftSound = s.leftSound := rfl
@[simp] theorem State.setMem_leftTimer (m : Memory) : (s.setMem m).leftTimer = s.leftTimer := rfl
@[simp] theorem State.setMem_pending (m : Memory) : (s.setMem m).pending = s.pending := rfl
@[simp] theorem State.setMem_response (m : Memory) : (s.setMem m).response = s.response := rfl
@[simp] theorem State.setMem_delivered (m : Memory) : (s.setMem m).delivered = s.delivered := rfl
@[simp] theorem State.setMem_draws (m : Memory) : (s.setMem m).draws = s.draws := rfl

@[simp] theorem State.setFb_v (fb : Framebuffer) : (s.setFb fb).v = s.v := rfl
@[simp] theorem State.setFb_pc (fb : Framebuffer) : (s.setFb fb).pc = s.pc := rfl
@[simp] theorem State.setFb_i (fb : Framebuffer) : (s.setFb fb).i = s.i := rfl
@[simp] theorem State.setFb_stack (fb : Framebuffer) : (s.setFb fb).stack = s.stack := rfl
@[simp] theorem State.setFb_sp (fb : Framebuffer) : (s.setFb fb).sp = s.sp := rfl
@[simp] theorem State.setFb_keypad (fb : Framebuffer) : (s.setFb fb).keypad = s.keypad := rfl
@[simp] theorem State.setFb_halt (fb : Framebuffer) : (s.setFb fb).halt = s.halt := rfl
@[simp] theorem State.setFb_wake (fb : Framebuffer) : (s.setFb fb).wake = s.wake := rfl
@[simp] theorem State.setFb_fb (fb : Framebuffer) : (s.setFb fb).fb = fb := rfl
@[simp] theorem State.setFb_dt (fb : Framebuffer) : (s.setFb fb).dt = s.dt := rfl
@[simp] theorem State.setFb_st (fb : Framebuffer) : (s.setFb fb).st = s.st := rfl
@[simp] theorem State.setFb_stFlag (fb : Framebuffer) : (s.setFb fb).stFlag = s.stFlag := rfl
@[simp] theorem State.setFb_mem (fb : Framebuffer) : (s.setFb fb).mem = s.mem := rfl
@[simp] theorem State.setFb_accCpu (fb : Framebuffer) : (s.setFb fb).accCpu = s.accCpu := rfl
@[simp] theorem State.setFb_accSound (fb : Framebuffer) : (s.setFb fb).accSound = s.accSound := rfl
@[simp] theorem State.setFb_accTimer (fb : Framebuffer) : (s.setFb fb).accTimer = s.accTimer := rfl
@[simp] theorem State.setFb_qCpu (fb : Framebuffer) : (s.setFb fb).qCpu = s.qCpu := rfl
@[simp] theorem State.setFb_qSound (fb : Framebuffer) : (s.setFb fb).qSound = s.qSound := rfl
@[simp] theorem State.setFb_qTimer (fb : Framebuffer) : (s.setFb fb).qTimer = s.qTimer := rfl
@[simp] theorem State.setFb_qHost (fb : Framebuffer) : (s.setFb fb).qHost = s.qHost := rfl
@[simp] theorem State.setFb_status (fb : Framebuffer) : (s.setFb fb).status = s.status := rfl
@[simp] theorem State.setFb_biasCpu (fb : Framebuffer) : (s.setFb fb).biasCpu = s.biasCpu := rfl
@[simp] theorem State.setFb_biasSound (fb : Framebuffer) : (s.setFb fb).biasSound = s.biasSound := rfl
@[simp] theorem State.setFb_biasTimer (fb : Framebuffer) : (s.setFb fb).biasTimer = s.biasTimer := rfl
@[simp] theorem State.setFb_dispatchMode (fb : Framebuffer) : (s.setFb fb).dispatchMode = s.dispatchMode := rfl
@[simp] theorem State.setFb_videoAttached (fb : Framebuffer) : (s.setFb fb).videoAttached = s.videoAttached := rfl
@[simp] theorem State.setFb_audioAttached (fb : Framebuffer) : (s.setFb fb).audioAttached = s.audioAttached := rfl
@[simp] theorem State.setFb_phase (fb : Framebuffer) : (s.setFb fb).phase = s.phase := rfl
@[simp] theorem State.setFb_leftCpu (fb : Framebuffer) : (s.setFb fb).leftCpu = s.leftCpu := rfl
@[simp] theorem State.setFb_leftSound (fb : Framebuffer) : (s.setFb fb).leftSound = s.leftSound := rfl
@[simp] theorem State.setFb_leftTimer (fb : Framebuffer) : (s.setFb fb).leftTimer = s.leftTimer := rfl
@[simp] theorem State.setFb_pending (fb : Framebuffer) : (s.setFb fb).pending = s.pending := rfl
@[simp] theorem State.setFb_response (fb : Framebuffer) : (s.setFb fb).response = s.response := rfl
@[simp] theorem State.setFb_delivered (fb : Framebuffer) : (s.setFb fb).delivered = s.delivered := rfl
@[simp] theorem State.setFb_draws (fb : Framebuffer) : (s.setFb fb).draws = s.draws := rfl

@[simp] theorem State.setDt_v (b : Byte) : (s.setDt b).v = s.v := rfl
@[simp] theorem State.setDt_pc (b : Byte) : (s.setDt b).pc = s.pc := rfl
@[simp] theorem State.setDt_i (b : Byte) : (s.setDt b).i = s.i := rfl
@[simp] theorem State.setDt_stack (b : Byte) : (s.setDt b).stack = s.stack := rfl
@[simp] theorem State.setDt_sp (b : Byte) : (s.setDt b).sp = s.sp := rfl
@[simp] theorem State.setDt_keypad (b : Byte) : (s.setDt b).keypad = s.keypad := rfl
@[simp] theorem State.setDt_halt (b : Byte) : (s.setDt b).halt = s.halt := rfl
@[simp] theorem State.setDt_wake (b : Byte) : (s.setDt b).wake = s.wake := rfl
@[simp] theorem State.setDt_fb (b : Byte) : (s.setDt b).fb = s.fb := rfl
@[simp] theorem State.setDt_dt (b : Byte) : (s.setDt b).dt = b := rfl
@[simp] theorem State.setDt_st (b : Byte) : (s.setDt b).st = s.st := rfl
@[simp] theorem State.setDt_stFlag (b : Byte) : (s.setDt b).stFlag = s.stFlag := rfl
@[simp] theorem State.setDt_mem (b : Byte) : (s.setDt b).mem = s.mem := rfl
@[simp] theorem State.setDt_accCpu (b : Byte) : (s.setDt b).accCpu = s.accCpu := rfl
@[simp] theorem State.setDt_accSound (b : Byte) : (s.setDt b).accSound = s.accSound := rfl
@[simp] theorem State.setDt_accTimer (b : Byte) : (s.setDt b).accTimer = s.accTimer := rfl
@[simp] theorem State.setDt_qCpu (b : Byte) : (s.setDt b).qCpu = s.qCpu := rfl
@[simp] theorem State.setDt_qSound (b : Byte) : (s.setDt b).qSound = s.qSound := rfl
@[simp] theorem State.setDt_qTimer (b : Byte) : (s.setDt b).qTimer = s.qTimer := rfl
@[simp] theorem State.setDt_qHost (b : Byte) : (s.setDt b).qHost = s.qHost := rfl
@[simp] theorem State.setDt_status (b : Byte) : (s.setDt b).status = s.status := rfl
@[simp] theorem State.setDt_biasCpu (b : Byte) : (s.setDt b).biasCpu = s.biasCpu := rfl
@[simp] theorem State.setDt_biasSound (b : Byte) : (s.setDt b).biasSound = s.biasSound := rfl
@[simp] theorem State.setDt_biasTimer (b : Byte) : (s.setDt b).biasTimer = s.biasTimer := rfl
@[simp] theorem State.setDt_dispatchMode (b : Byte) : (s.setDt b).dispatchMode = s.dispatchMode := rfl
@[simp] theorem State.setDt_videoAttached (b : Byte) : (s.setDt b).videoAttached = s.videoAttached := rfl
@[simp] theorem State.setDt_audioAttached (b : Byte) : (s.setDt b).audioAttached = s.audioAttached := rfl
@[simp] theorem State.setDt_phase (b : Byte) : (s.setDt b).phase = s.phase := rfl
@[simp] theorem State.setDt_leftCpu (b : Byte) : (s.setDt b).leftCpu = s.leftCpu := rfl
@[simp] theorem State.setDt_leftSound (b : Byte) : (s.setDt b).leftSound = s.leftSound := rfl
@[simp] theorem State.setDt_leftTimer (b : Byte) : (s.setDt b).leftTimer = s.leftTimer := rfl
@[simp] theorem State.setDt_pending (b : Byte) : (s.setDt b).pending = s.pending := rfl
@[simp] theorem State.setDt_response (b : Byte) : (s.setDt b).response = s.response := rfl
@[simp] theorem State.setDt_delivered (b : Byte) : (s.setDt b).delivered = s.delivered := rfl
@[simp] theorem State.setDt_draws (b : Byte) : (s.setDt b).draws = s.draws := rfl

@[simp] theorem State.setHalt_v (h : Bool) : (s.setHalt h).v = s.v := rfl
@[simp] theorem State.setHalt_pc (h : Bool) : (s.setHalt h).pc = s.pc := rfl
@[simp] theorem State.setHalt_i (h : Bool) : (s.setHalt h).i = s.i := rfl
@[simp] theorem State.setHalt_stack (h : Bool) : (s.setHalt h).stack = s.stack := rfl
@[simp] theorem State.setHalt_sp (h : Bool) : (s.setHalt h).sp = s.sp := rfl
@[simp] theorem State.setHalt_keypad (h : Bool) : (s.setHalt h).keypad = s.keypad := rfl
@[simp] theorem State.setHalt_halt (h : Bool) : (s.setHalt h).halt = h := rfl
@[simp] theorem State.setHalt_wake (h : Bool) : (s.setHalt h).wake = s.wake := rfl
@[simp] theorem State.setHalt_fb (h : Bool) : (s.setHalt h).fb = s.fb := rfl
@[simp] theorem State.setHalt_dt (h : Bool) : (s.setHalt h).dt = s.dt := rfl
@[simp] theorem State.setHalt_st (h : Bool) : (s.setHalt h).st = s.st := rfl
@[simp] theorem State.setHalt_stFlag (h : Bool) : (s.setHalt h).stFlag = s.stFlag := rfl
@[simp] theorem State.setHalt_mem (h : Bool) : (s.setHalt h).mem = s.mem := rfl
@[simp] theorem State.setHalt_accCpu (h : Bool) : (s.setHalt h).accCpu = s.accCpu := rfl
@[simp] theorem State.setHalt_accSound (h : Bool) : (s.setHalt h).accSound = s.accSound := rfl
@[simp] theorem State.setHalt_accTimer (h : Bool) : (s.setHalt h).accTimer = s.accTimer := rfl
@[simp] theorem State.setHalt_qCpu (h : Bool) : (s.setHalt h).qCpu = s.qCpu := rfl
@[simp] theorem State.setHalt_qSound (h : Bool) : (s.setHalt h).qSound = s.qSound := rfl
@[simp] theorem State.setHalt_qTimer (h : Bool) : (s.setHalt h).qTimer = s.qTimer := rfl
@[simp] theorem State.setHalt_qHost (h : Bool) : (s.setHalt h).qHost = s.qHost := rfl
@[simp] theorem State.setHalt_status (h : Bool) : (s.setHalt h).status = s.status := rfl
@[simp] theorem State.setHalt_biasCpu (h : Bool) : (s.setHalt h).biasCpu = s.biasCpu := rfl
@[simp] theorem State.setHalt_biasSound (h : Bool) : (s.setHalt h).biasSound = s.biasSound := rfl
@[simp] theorem State.setHalt_biasTimer (h : Bool) : (s.setHalt h).biasTimer = s.biasTimer := rfl
@[simp] theorem State.setHalt_dispatchMode (h : Bool) : (s.setHalt h).dispatchMode = s.dispatchMode := rfl
@[simp] theorem State.setHalt_videoAttached (h : Bool) : (s.setHalt h).videoAttached = s.videoAttached := rfl
@[simp] theorem State.setHalt_audioAttached (h : Bool) : (s.setHalt h).audioAttached = s.audioAttached := rfl
@[simp] theorem State.setHalt_phase (h : Bool) : (s.setHalt h).phase = s.phase := rfl
@[simp] theorem State.setHalt_leftCpu (h : Bool) : (s.setHalt h).leftCpu = s.leftCpu := rfl
@[simp] theorem State.setHalt_leftSound (h : Bool) : (s.setHalt h).leftSound = s.leftSound := rfl
@[simp] theorem State.setHalt_leftTimer (h : Bool) : (s.setHalt h).leftTimer = s.leftTimer := rfl
@[simp] theorem State.setHalt_pending (h : Bool) : (s.setHalt h).pending = s.pending := rfl
@[simp] theorem State.setHalt_response (h : Bool) : (s.setHalt h).response = s.response := rfl
@[simp] theorem State.setHalt_delivered (h : Bool) : (s.setHalt h).delivered = s.delivered := rfl
@[simp] theorem State.setHalt_draws (h : Bool) : (s.setHalt h).draws = s.draws := rfl

@[simp] theorem State.setWake_v (w : Option (Fin 16)) : (s.setWake w).v = s.v := rfl
@[simp] theorem State.setWake_pc (w : Option (Fin 16)) : (s.setWake w).pc = s.pc := rfl
@[simp] theorem State.setWake_i (w : Option (Fin 16)) : (s.setWake w).i = s.i := rfl
@[simp] theorem State.setWake_stack (w : Option (Fin 16)) : (s.setWake w).stack = s.stack := rfl
@[simp] theorem State.setWake_sp (w : Option (Fin 16)) : (s.setWake w).sp = s.sp := rfl
@[simp] theorem State.setWake_keypad (w : Option (Fin 16)) : (s.setWake w).keypad = s.keypad := rfl
@[simp] theorem State.setWake_halt (w : Option (Fin 16)) : (s.setWake w).halt = s.halt := rfl
@[simp] theorem State.setWake_wake (w : Option (Fin 16)) : (s.setWake w).wake = w := rfl
@[simp] theorem State.setWake_fb (w : Option (Fin 16)) : (s.setWake w).fb = s.fb := rfl
@[simp] theorem State.setWake_dt (w : Option (Fin 16)) : (s.setWake w).dt = s.dt := rfl
@[simp] theorem State.setWake_st (w : Option (Fin 16)) : (s.setWake w).st = s.st := rfl
@[simp] theorem State.setWake_stFlag (w : Option (Fin 16)) : (s.setWake w).stFlag = s.stFlag := rfl
@[simp] theorem State.setWake_mem (w : Option (Fin 16)) : (s.setWake w).mem = s.mem := rfl
@[simp] theorem State.setWake_accCpu (w : Option (Fin 16)) : (s.setWake w).accCpu = s.accCpu := rfl
@[simp] theorem State.setWake_accSound (w : Option (Fin 16)) : (s.setWake w).accSound = s.accSound := rfl
@[simp] theorem State.setWake_accTimer (w : Option (Fin 16)) : (s.setWake w).accTimer = s.accTimer := rfl
@[simp] theorem State.setWake_qCpu (w : Option (Fin 16)) : (s.setWake w).qCpu = s.qCpu := rfl
@[simp] theorem State.setWake_qSound (w : Option (Fin 16)) : (s.setWake w).qSound = s.qSound := rfl
@[simp] theorem State.setWake_qTimer (w : Option (Fin 16)) : (s.setWake w).qTimer = s.qTimer := rfl
@[simp] theorem State.setWake_qHost (w : Option (Fin 16)) : (s.setWake w).qHost = s.qHost := rfl
@[simp] theorem State.setWake_status (w : Option (Fin 16)) : (s.setWake w).status = s.status := rfl
@[simp] theorem State.setWake_biasCpu (w : Option (Fin 16)) : (s.setWake w).biasCpu = s.biasCpu := rfl
@[simp] theorem State.setWake_biasSound (w : Option (Fin 16)) : (s.setWake w).biasSound = s.biasSound := rfl
@[simp] theorem State.setWake_biasTimer (w : Option (Fin 16)) : (s.setWake w).biasTimer = s.biasTimer := rfl
@[simp] theorem State.setWake_dispatchMode (w : Option (Fin 16)) : (s.setWake w).dispatchMode = s.dispatchMode := rfl
@[simp] theorem State.setWake_videoAttached (w : Option (Fin 16)) : (s.setWake w).videoAttached = s.videoAttached := rfl
@[simp] theorem State.setWake_audioAttached (w : Option (Fin 16)) : (s.setWake w).audioAttached = s.audioAttached := rfl
@[simp] theorem State.setWake_phase (w : Option (Fin 16)) : (s.setWake w).phase = s.phase := rfl
@[simp] theorem State.setWake_leftCpu (w : Option (Fin 16)) : (s.setWake w).leftCpu = s.leftCpu := rfl
@[simp] theorem State.setWake_leftSound (w : Option (Fin 16)) : (s.setWake w).leftSound = s.leftSound := rfl
@[simp] theorem State.setWake_leftTimer (w : Option (Fin 16)) : (s.setWake w).leftTimer = s.leftTimer := rfl
@[simp] theorem State.setWake_pending (w : Option (Fin 16)) : (s.setWake w).pending = s.pending := rfl
@[simp] theorem State.setWake_response (w : Option (Fin 16)) : (s.setWake w).response = s.response := rfl
@[simp] theorem State.setWake_delivered (w : Option (Fin 16)) : (s.setWake w).delivered = s.delivered := rfl
@[simp] theorem State.setWake_draws (w : Option (Fin 16)) : (s.setWake w).draws = s.draws := rfl

@[simp] theorem State.setKeypad_v (k : Word) : (s.setKeypad k).v = s.v := rfl
@[simp] theorem State.setKeypad_pc (k : Word) : (s.setKeypad k).pc = s.pc := rfl
@[simp] theorem State.setKeypad_i (k : Word) : (s.setKeypad k).i = s.i := rfl
@[simp] theorem State.setKeypad_stack (k : Word) : (s.setKeypad k).stack = s.stack := rfl
@[simp] theorem State.setKeypad_sp (k : Word) : (s.setKeypad k).sp = s.sp := rfl
@[simp] theorem State.setKeypad_keypad (k : Word) : (s.setKeypad k).keypad = k := rfl
@[simp] theorem State.setKeypad_halt (k : Word) : (s.setKeypad k).halt = s.halt := rfl
@[simp] theorem State.setKeypad_wake (k : Word) : (s.setKeypad k).wake = s.wake := rfl
@[simp] theorem State.setKeypad_fb (k : Word) : (s.setKeypad k).fb = s.fb := rfl
@[simp] theorem State.setKeypad_dt (k : Word) : (s.setKeypad k).dt = s.dt := rfl
@[simp] theorem State.setKeypad_st (k : Word) : (s.setKeypad k).st = s.st := rfl
@[simp] theorem State.setKeypad_stFlag (k : Word) : (s.setKeypad k).stFlag = s.stFlag := rfl
@[simp] theorem State.setKeypad_mem (k : Word) : (s.setKeypad k).mem = s.mem := rfl
@[simp] theorem State.setKeypad_accCpu (k : Word) : (s.setKeypad k).accCpu = s.accCpu := rfl
@[simp] theorem State.setKeypad_accSound (k : Word) : (s.setKeypad k).accSound = s.accSound := rfl
@[simp] theorem State.setKeypad_accTimer (k : Word) : (s.setKeypad k).accTimer = s.accTimer := rfl
@[simp] theorem State.setKeypad_qCpu (k : Word) : (s.setKeypad k).qCpu = s.qCpu := rfl
@[simp] theorem State.setKeypad_qSound (k : Word) : (s.setKeypad k).qSound = s.qSound := rfl
@[simp] theorem State.setKeypad_qTimer (k : Word) : (s.setKeypad k).qTimer = s.qTimer := rfl
@[simp] theorem State.setKeypad_qHost (k : Word) : (s.setKeypad k).qHost = s.qHost := rfl
@[simp] theorem State.setKeypad_status (k : Word) : (s.setKeypad k).status = s.status := rfl
@[simp] theorem State.setKeypad_biasCpu (k : Word) : (s.setKeypad k).biasCpu = s.biasCpu := rfl
@[simp] theorem State.setKeypad_biasSound (k : Word) : (s.setKeypad k).biasSound = s.biasSound := rfl
@[simp] theorem State.setKeypad_biasTimer (k : Word) : (s.setKeypad k).biasTimer = s.biasTimer := rfl
@[simp] theorem State.setKeypad_dispatchMode (k : Word) : (s.setKeypad k).dispatchMode = s.dispatchMode := rfl
@[simp] theorem State.setKeypad_videoAttached (k : Word) : (s.setKeypad k).videoAttached = s.videoAttached := rfl
@[simp] theorem State.setKeypad_audioAttached (k : Word) : (s.setKeypad k).audioAttached = s.audioAttached := rfl
@[simp] theorem State.setKeypad_phase (k : Word) : (s.setKeypad k).phase = s.phase := rfl
@[simp] theorem State.setKeypad_leftCpu (k : Word) : (s.setKeypad k).leftCpu = s.leftCpu := rfl
@[simp] theorem State.setKeypad_leftSound (k : Word) : (s.setKeypad k).leftSound = s.leftSound := rfl
@[simp] theorem State.setKeypad_leftTimer (k : Word) : (s.setKeypad k).leftTimer = s.leftTimer := rfl
@[simp] theorem State.setKeypad_pending (k : Word) : (s.setKeypad k).pending = s.pending := rfl
@[simp] theorem State.setKeypad_response (k : Word) : (s.setKeypad k).response = s.response := rfl
@[simp] theorem State.setKeypad_delivered (k : Word) : (s.setKeypad k).delivered = s.delivered := rfl
@[simp] theorem State.setKeypad_draws (k : Word) : (s.setKeypad k).draws = s.draws := rfl

@[simp] theorem State.pushHost_v (e : Notification) : (s.pushHost e).v = s.v := rfl
@[simp] theorem State.pushHost_pc (e : Notification) : (s.pushHost e).pc = s.pc := rfl
@[simp] theorem State.pushHost_i (e : Notification) : (s.pushHost e).i = s.i := rfl
@[simp] theorem State.pushHost_stack (e : Notification) : (s.pushHost e).stack = s.stack := rfl
@[simp] theorem State.pushHost_sp (e : Notification) : (s.pushHost e).sp = s.sp := rfl
@[simp] theorem State.pushHost_keypad (e : Notification) : (s.pushHost e).keypad = s.keypad := rfl
@[simp] theorem State.pushHost_halt (e : Notification) : (s.pushHost e).halt = s.halt := rfl
@[simp] theorem State.pushHost_wake (e : Notification) : (s.pushHost e).wake = s.wake := rfl
@[simp] theorem State.pushHost_fb (e : Notification) : (s.pushHost e).fb = s.fb := rfl
@[simp] theorem State.pushHost_dt (e : Notification) : (s.pushHost e).dt = s.dt := rfl
@[simp] theorem State.pushHost_st (e : Notification) : (s.pushHost e).st = s.st := rfl
@[simp] theorem State.pushHost_stFlag (e : Notification) : (s.pushHost e).stFlag = s.stFlag := rfl
@[simp] theorem State.pushHost_mem (e : Notification) : (s.pushHost e).mem = s.mem := rfl
@[simp] theorem State.pushHost_accCpu (e : Notification) : (s.pushHost e).accCpu = s.accCpu := rfl
@[simp] theorem State.pushHost_accSound (e : Notification) : (s.pushHost e).accSound = s.accSound := rfl
@[simp] theorem State.pushHost_accTimer (e : Notification) : (s.pushHost e).accTimer = s.accTimer := rfl
@[simp] theorem State.pushHost_qCpu (e : Notification) : (s.pushHost e).qCpu = s.qCpu := rfl
@[simp] theorem State.pushHost_qSound (e : Notification) : (s.pushHost e).qSound = s.qSound := rfl
@[simp] theorem State.pushHost_qTimer (e : Notification) : (s.pushHost e).qTimer = s.qTimer := rfl
@[simp] theorem State.pushHost_qHost (e : Notification) : (s.pushHost e).qHost = s.qHost ++ [e] := rfl
@[simp] theorem State.pushHost_status (e : Notification) : (s.pushHost e).status = s.status := rfl
@[simp] theorem State.pushHost_biasCpu (e : Notification) : (s.pushHost e).biasCpu = s.biasCpu := rfl
@[simp] theorem State.pushHost_biasSound (e : Notification) : (s.pushHost e).biasSound = s.biasSound := rfl
@[simp] theorem State.pushHost_biasTimer (e : Notification) : (s.pushHost e).biasTimer = s.biasTimer := rfl
@[simp] theorem State.pushHost_dispatchMode (e : Notification) : (s.pushHost e).dispatchMode = s.dispatchMode := rfl
@[simp] theorem State.pushHost_videoAttached (e : Notification) : (s.pushHost e).videoAttached = s.videoAttached := rfl
@[simp] theorem State.pushHost_audioAttached (e : Notification) : (s.pushHost e).audioAttached = s.audioAttached := rfl
@[simp] theorem State.pushHost_phase (e : Notification) : (s.pushHost e).phase = s.phase := rfl
@[simp] theorem State.pushHost_leftCpu (e : Notification) : (s.pushHost e).leftCpu = s.leftCpu := rfl
@[simp] theorem State.pushHost_leftSound (e : Notification) : (s.pushHost e).leftSound = s.leftSound := rfl
@[simp] theorem State.pushHost_leftTimer (e : Notification) : (s.pushHost e).leftTimer = s.leftTimer := rfl
@[simp] theorem State.pushHost_pending (e : Notification) : (s.pushHost e).pending = s.pending := rfl
@[simp] theorem State.pushHost_response (e : Notification) : (s.pushHost e).response = s.response := rfl
@[simp] theorem State.pushHost_delivered (e : Notification) : (s.pushHost e).delivered = s.delivered := rfl
@[simp] theorem State.pushHost_draws (e : Notification) : (s.pushHost e).draws = s.draws := rfl

@[simp] theorem State.countDraw_v : (s.countDraw).v = s.v := rfl
@[simp] theorem State.countDraw_pc : (s.countDraw).pc = s.pc := rfl
@[simp] theorem State.countDraw_i : (s.countDraw).i = s.i := rfl
@[simp] theorem State.countDraw_stack : (s.countDraw).stack = s.stack := rfl
@[simp] theorem State.countDraw_sp : (s.countDraw).sp = s.sp := rfl
@[simp] theorem State.countDraw_keypad : (s.countDraw).keypad = s.keypad := rfl
@[simp] theorem State.countDraw_halt : (s.countDraw).halt = s.halt := rfl
@[simp] theorem State.countDraw_wake : (s.countDraw).wake = s.wake := rfl
@[simp] theorem State.countDraw_fb : (s.countDraw).fb = s.fb := rfl
@[simp] theorem State.countDraw_dt : (s.countDraw).dt = s.dt := rfl
@[simp] theorem State.countDraw_st : (s.countDraw).st = s.st := rfl
@[simp] theorem State.countDraw_stFlag : (s.countDraw).stFlag = s.stFlag := rfl
@[simp] theorem State.countDraw_mem : (s.countDraw).mem = s.mem := rfl
@[simp] theorem State.countDraw_accCpu : (s.countDraw).accCpu = s.accCpu := rfl
@[simp] theorem State.countDraw_accSound : (s.countDraw).accSound = s.accSound := rfl
@[simp] theorem State.countDraw_accTimer : (s.countDraw).accTimer = s.accTimer := rfl
@[simp] theorem State.countDraw_qCpu : (s.countDraw).qCpu = s.qCpu := rfl
@[simp] theorem State.countDraw_qSound : (s.countDraw).qSound = s.qSound := rfl
@[simp] theorem State.countDraw_qTimer : (s.countDraw).qTimer = s.qTimer := rfl
@[simp] theorem State.countDraw_qHost : (s.countDraw).qHost = s.qHost := rfl
@[simp] theorem State.countDraw_status : (s.countDraw).status = s.status := rfl
@[simp] theorem State.countDraw_biasCpu : (s.countDraw).biasCpu = s.biasCpu := rfl
@[simp] theorem State.countDraw_biasSound : (s.countDraw).biasSound = s.biasSound := rfl
@[simp] theorem State.countDraw_biasTimer : (s.countDraw).biasTimer = s.biasTimer := rfl
@[simp] theorem State.countDraw_dispatchMode : (s.countDraw).dispatchMode = s.dispatchMode := rfl
@[simp] theorem State.countDraw_videoAttached : (s.countDraw).videoAttached = s.videoAttached := rfl
@[simp] theorem State.countDraw_audioAttached : (s.countDraw).audioAttached = s.audioAttached := rfl
@[simp] theorem State.countDraw_phase : (s.countDraw).phase = s.phase := rfl
@[simp] theorem State.countDraw_leftCpu : (s.countDraw).leftCpu = s.leftCpu := rfl
@[simp] theorem State.countDraw_leftSound : (s.countDraw).leftSound = s.leftSound := rfl
@[simp] theorem State.countDraw_leftTimer : (s.countDraw).leftTimer = s.leftTimer := rfl
@[simp] theorem State.countDraw_pending : (s.countDraw).pending = s.pending := rfl
@[simp] theorem State.countDraw_response : (s.countDraw).response = s.response := rfl
@[simp] theorem State.countDraw_delivered : (s.countDraw).delivered = s.delivered := rfl
@[simp] theorem State.countDraw_draws : (s.countDraw).draws = s.draws + 1 := rfl

@[simp] theorem State.setStatus_v (st : Status) : (s.setStatus st).v = s.v := rfl
@[simp] theorem State.setStatus_pc (st : Status) : (s.setStatus st).pc = s.pc := rfl
@[simp] theorem State.setStatus_i (st : Status) : (s.setStatus st).i = s.i := rfl
@[simp] theorem State.setStatus_stack (st : Status) : (s.setStatus st).stack = s.stack := rfl
@[simp] theorem State.setStatus_sp (st : Status) : (s.setStatus st).sp = s.sp := rfl
@[simp] theorem State.setStatus_keypad (st : Status) : (s.setStatus st).keypad = s.keypad := rfl
@[simp] theorem State.setStatus_halt (st : Status) : (s.setStatus st).halt = s.halt := rfl
@[simp] theorem State.setStatus_wake (st : Status) : (s.setStatus st).wake = s.wake := rfl
@[simp] theorem State.setStatus_fb (st : Status) : (s.setStatus st).fb = s.fb := rfl
@[simp] theorem State.setStatus_dt (st : Status) : (s.setStatus st).dt = s.dt := rfl
@[simp] theorem State.setStatus_st (st : Status) : (s.setStatus st).st = s.st := rfl
@[simp] theorem State.setStatus_stFlag (st : Status) : (s.setStatus st).stFlag = s.stFlag := rfl
@[simp] theorem State.setStatus_mem (st : Status) : (s.setStatus st).mem = s.mem := rfl
@[simp] theorem State.setStatus_accCpu (st : Status) : (s.setStatus st).accCpu = s.accCpu := rfl
@[simp] theorem State.setStatus_accSound (st : Status) : (s.setStatus st).accSound = s.accSound := rfl
@[simp] theorem State.setStatus_accTimer (st : Status) : (s.setStatus st).accTimer = s.accTimer := rfl
@[simp] theorem State.setStatus_qCpu (st : Status) : (s.setStatus st).qCpu = s.qCpu := rfl
@[simp] theorem State.setStatus_qSound (st : Status) : (s.setStatus st).qSound = s.qSound := rfl
@[simp] theorem State.setStatus_qTimer (st : Status) : (s.setStatus st).qTimer = s.qTimer := rfl
@[simp] theorem State.setStatus_qHost (st : Status) : (s.setStatus st).qHost = s.qHost := rfl
@[simp] theorem State.setStatus_status (st : Status) : (s.setStatus st).status = st := rfl
@[simp] theorem State.setStatus_biasCpu (st : Status) : (s.setStatus st).biasCpu = s.biasCpu := rfl
@[simp] theorem State.setStatus_biasSound (st : Status) : (s.setStatus st).biasSound = s.biasSound := rfl
@[simp] theorem State.setStatus_biasTimer (st : Status) : (s.setStatus st).biasTimer = s.biasTimer := rfl
@[simp] theorem State.setStatus_dispatchMode (st : Status) : (s.setStatus st).dispatchMode = s.dispatchMode := rfl
@[simp] theorem State.setStatus_videoAttached (st : Status) : (s.setStatus st).videoAttached = s.videoAttached := rfl
@[simp] theorem State.setStatus_audioAttached (st : Status) : (s.setStatus st).audioAttached = s.audioAttached := rfl
@[simp] theorem State.setStatus_phase (st : Status) : (s.setStatus st).phase = s.phase := rfl
@[simp] theorem State.setStatus_leftCpu (st : Status) : (s.setStatus st).leftCpu = s.leftCpu := rfl
@[simp] theorem State.setStatus_leftSound (st : Status) : (s.setStatus st).leftSound = s.leftSound := rfl
@[simp] theorem State.setStatus_leftTimer (st : Status) : (s.setStatus st).leftTimer = s.leftTimer := rfl
@[simp] theorem State.setStatus_pending (st : Status) : (s.setStatus st).pending = s.pending := rfl
@[simp] theorem State.setStatus_response (st : Status) : (s.setStatus st).response = s.response := rfl
@[simp] theorem State.setStatus_delivered (st : Status) : (s.setStatus st).delivered = s.delivered := rfl
@[simp] theorem State.setStatus_draws (st : Status) : (s.setStatus st).draws = s.draws := rfl

@[simp] theorem State.syncWriteSt_v (b : Byte) : (s.syncWriteSt b).v = s.v := rfl
@[simp] theorem State.syncWriteSt_pc (b : Byte) : (s.syncWriteSt b).pc = s.pc := rfl
@[simp] theorem State.syncWriteSt_i (b : Byte) : (s.syncWriteSt b).i = s.i := rfl
@[simp] theorem State.syncWriteSt_stack (b : Byte) : (s.syncWriteSt b).stack = s.stack := rfl
@[simp] theorem State.syncWriteSt_sp (b : Byte) : (s.syncWriteSt b).sp = s.sp := rfl
@[simp] theorem State.syncWriteSt_keypad (b : Byte) : (s.syncWriteSt b).keypad = s.keypad := rfl
@[simp] theorem State.syncWriteSt_halt (b : Byte) : (s.syncWriteSt b).halt = s.halt := rfl
@[simp] theorem State.syncWriteSt_wake (b : Byte) : (s.syncWriteSt b).wake = s.wake := rfl
@[simp] theorem State.syncWriteSt_fb (b : Byte) : (s.syncWriteSt b).fb = s.fb := rfl
@[simp] theorem State.syncWriteSt_dt (b : Byte) : (s.syncWriteSt b).dt = s.dt := rfl
@[simp] theorem State.syncWriteSt_st (b : Byte) : (s.syncWriteSt b).st = b := rfl
@[simp] theorem State.syncWriteSt_stFlag (b : Byte) : (s.syncWriteSt b).stFlag = (s.stFlag || crossesZero s.st b) := rfl
@[simp] theorem State.syncWriteSt_mem (b : Byte) : (s.syncWriteSt b).mem = s.mem := rfl
@[simp] theorem State.syncWriteSt_accCpu (b : Byte) : (s.syncWriteSt b).accCpu = s.accCpu := rfl
@[simp] theorem State.syncWriteSt_accSound (b : Byte) : (s.syncWriteSt b).accSound = s.accSound := rfl
@[simp] theorem State.syncWriteSt_accTimer (b : Byte) : (s.syncWriteSt b).accTimer = s.accTimer := rfl
@[simp] theorem State.syncWriteSt_qCpu (b : Byte) : (s.syncWriteSt b).qCpu = s.qCpu := rfl
@[simp] theorem State.syncWriteSt_qSound (b : Byte) : (s.syncWriteSt b).qSound = s.qSound := rfl
@[simp] theorem State.syncWriteSt_qTimer (b : Byte) : (s.syncWriteSt b).qTimer = s.qTimer := rfl
@[simp] theorem State.syncWriteSt_qHost (b : Byte) : (s.syncWriteSt b).qHost = s.qHost := rfl
@[simp] theorem State.syncWriteSt_status (b : Byte) : (s.syncWriteSt b).status = s.status := rfl
@[simp] theorem State.syncWriteSt_biasCpu (b : Byte) : (s.syncWriteSt b).biasCpu = s.biasCpu := rfl
@[simp] theorem State.syncWriteSt_biasSound (b : Byte) : (s.syncWriteSt b).biasSound = s.biasSound := rfl
@[simp] theorem State.syncWriteSt_biasTimer (b : Byte) : (s.syncWriteSt b).biasTimer = s.biasTimer := rfl
@[simp] theorem State.syncWriteSt_dispatchMode (b : Byte) : (s.syncWriteSt b).dispatchMode = s.dispatchMode := rfl
@[simp] theorem State.syncWriteSt_videoAttached (b : Byte) : (s.syncWriteSt b).videoAttached = s.videoAttached := rfl
@[simp] theorem State.syncWriteSt_audioAttached (b : Byte) : (s.syncWriteSt b).audioAttached = s.audioAttached := rfl
@[simp] theorem State.syncWriteSt_phase (b : Byte) : (s.syncWriteSt b).phase = s.phase := rfl
@[simp] theorem State.syncWriteSt_leftCpu (b : Byte) : (s.syncWriteSt b).leftCpu = s.leftCpu := rfl
@[simp] theorem State.syncWriteSt_leftSound (b : Byte) : (s.syncWriteSt b).leftSound = s.leftSound := rfl
@[simp] theorem State.syncWriteSt_leftTimer (b : Byte) : (s.syncWriteSt b).leftTimer = s.leftTimer := rfl
@[simp] theorem State.syncWriteSt_pending (b : Byte) : (s.syncWriteSt b).pending = s.pending := rfl
@[simp] theorem State.syncWriteSt_response (b : Byte) : (s.syncWriteSt b).response = s.response := rfl
@[simp] theorem State.syncWriteSt_delivered (b : Byte) : (s.syncWriteSt b).delivered = s.delivered := rfl
@[simp] theorem State.syncWriteSt_draws (b : Byte) : (s.syncWriteSt b).draws = s.draws := rfl

@[simp] theorem State.clearStFlag_v : (s.clearStFlag).v = s.v := rfl
@[simp] theorem State.clearStFlag_pc : (s.clearStFlag).pc = s.pc := rfl
@[simp] theorem State.clearStFlag_i : (s.clearStFlag).i = s.i := rfl
@[simp] theorem State.clearStFlag_stack : (s.clearStFlag).stack = s.stack := rfl
@[simp] theorem State.clearStFlag_sp : (s.clearStFlag).sp = s.sp := rfl
@[simp] theorem State.clearStFlag_keypad : (s.clearStFlag).keypad = s.keypad := rfl
@[simp] theorem State.clearStFlag_halt : (s.clearStFlag).halt = s.halt := rfl
@[simp] theorem State.clearStFlag_wake : (s.clearStFlag).wake = s.wake := rfl
@[simp] theorem State.clearStFlag_fb : (s.clearStFlag).fb = s.fb := rfl
@[simp] theorem State.clearStFlag_dt : (s.clearStFlag).dt = s.dt := rfl
@[simp] theorem State.clearStFlag_st : (s.clearStFlag).st = s.st := rfl
@[simp] theorem State.clearStFlag_stFlag : (s.clearStFlag).stFlag = false := rfl
@[simp] theorem State.clearStFlag_mem : (s.clearStFlag).mem = s.mem := rfl
@[simp] theorem State.clearStFlag_accCpu : (s.clearStFlag).accCpu = s.accCpu := rfl
@[simp] theorem State.clearStFlag_accSound : (s.clearStFlag).accSound = s.accSound := rfl
@[simp] theorem State.clearStFlag_accTimer : (s.clearStFlag).accTimer = s.accTimer := rfl
@[simp] theorem State.clearStFlag_qCpu : (s.clearStFlag).qCpu = s.qCpu := rfl
@[simp] theorem State.clearStFlag_qSound : (s.clearStFlag).qSound = s.qSound := rfl
@[simp] theorem State.clearStFlag_qTimer : (s.clearStFlag).qTimer = s.qTimer := rfl
@[simp] theorem State.clearStFlag_qHost : (s.clearStFlag).qHost = s.qHost := rfl
@[simp] theorem State.clearStFlag_status : (s.clearStFlag).status = s.status := rfl
@[simp] theorem State.clearStFlag_biasCpu : (s.clearStFlag).biasCpu = s.biasCpu := rfl
@[simp] theorem State.clearStFlag_biasSound : (s.clearStFlag).biasSound = s.biasSound := rfl
@[simp] theorem State.clearStFlag_biasTimer : (s.clearStFlag).biasTimer = s.biasTimer := rfl
@[simp] theorem State.clearStFlag_dispatchMode : (s.clearStFlag).dispatchMode = s.dispatchMode := rfl
@[simp] theorem State.clearStFlag_videoAttached : (s.clearStFlag).videoAttached = s.videoAttached := rfl
@[simp] theorem State.clearStFlag_audioAttached : (s.clearStFlag).audioAttached = s.audioAttached := rfl
@[simp] theorem State.clearStFlag_phase : (s.clearStFlag).phase = s.phase := rfl
@[simp] theorem State.clearStFlag_leftCpu : (s.clearStFlag).leftCpu = s.leftCpu := rfl
@[simp] theorem State.clearStFlag_leftSound : (s.clearStFlag).leftSound = s.leftSound := rfl
@[simp] theorem State.clearStFlag_leftTimer : (s.clearStFlag).leftTimer = s.leftTimer := rfl
@[simp] theorem State.clearStFlag_pending : (s.clearStFlag).pending = s.pending := rfl
@[simp] theorem State.clearStFlag_response : (s.clearStFlag).response = s.response := rfl
@[simp] theorem State.clearStFlag_delivered : (s.clearStFlag).delivered = s.delivered := rfl
@[simp] theorem State.clearStFlag_draws : (s.clearStFlag).draws = s.draws := rfl

@[simp] theorem State.respond_v (r : Response) : (s.respond r).v = s.v := rfl
@[simp] theorem State.respond_pc (r : Response) : (s.respond r).pc = s.pc := rfl
@[simp] theorem State.respond_i (r : Response) : (s.respond r).i = s.i := rfl
@[simp] theorem State.respond_stack (r : Response) : (s.respond r).stack = s.stack := rfl
@[simp] theorem State.respond_sp (r : Response) : (s.respond r).sp = s.sp := rfl
@[simp] theorem State.respond_keypad (r : Response) : (s.respond r).keypad = s.keypad := rfl
@[simp] theorem State.respond_halt (r : Response) : (s.respond r).halt = s.halt := rfl
@[simp] theorem State.respond_wake (r : Response) : (s.respond r).wake = s.wake := rfl
@[simp] theorem State.respond_fb (r : Response) : (s.respond r).fb = s.fb := rfl
@[simp] theorem State.respond_dt (r : Response) : (s.respond r).dt = s.dt := rfl
@[simp] theorem State.respond_st (r : Response) : (s.respond r).st = s.st := rfl
@[simp] theorem State.respond_stFlag (r : Response) : (s.respond r).stFlag = s.stFlag := rfl
@[simp] theorem State.respond_mem (r : Response) : (s.respond r).mem = s.mem := rfl
@[simp] theorem State.respond_accCpu (r : Response) : (s.respond r).accCpu = s.accCpu := rfl
@[simp] theorem State.respond_accSound (r : Response) : (s.respond r).accSound = s.accSound := rfl
@[simp] theorem State.respond_accTimer (r : Response) : (s.respond r).accTimer = s.accTimer := rfl
@[simp] theorem State.respond_qCpu (r : Response) : (s.respond r).qCpu = s.qCpu := rfl
@[simp] theorem State.respond_qSound (r : Response) : (s.respond r).qSound = s.qSound := rfl
@[simp] theorem State.respond_qTimer (r : Response) : (s.respond r).qTimer = s.qTimer := rfl
@[simp] theorem State.respond_qHost (r : Response) : (s.respond r).qHost = s.qHost := rfl
@[simp] theorem State.respond_status (r : Response) : (s.respond r).status = s.status := rfl
@[simp] theorem State.respond_biasCpu (r : Response) : (s.respond r).biasCpu = s.biasCpu := rfl
@[simp] theorem State.respond_biasSound (r : Response) : (s.respond r).biasSound = s.biasSound := rfl
@[simp] theorem State.respond_biasTimer (r : Response) : (s.respond r).biasTimer = s.biasTimer := rfl
@[simp] theorem State.respond_dispatchMode (r : Response) : (s.respond r).dispatchMode = s.dispatchMode := rfl
@[simp] theorem State.respond_videoAttached (r : Response) : (s.respond r).videoAttached = s.videoAttached := rfl
@[simp] theorem State.respond_audioAttached (r : Response) : (s.respond r).audioAttached = s.audioAttached := rfl
@[simp] theorem State.respond_phase (r : Response) : (s.respond r).phase = s.phase := rfl
@[simp] theorem State.respond_leftCpu (r : Response) : (s.respond r).leftCpu = s.leftCpu := rfl
@[simp] theorem State.respond_leftSound (r : Response) : (s.respond r).leftSound = s.leftSound := rfl
@[simp] theorem State.respond_leftTimer (r : Response) : (s.respond r).leftTimer = s.leftTimer := rfl
@[simp] theorem State.respond_pending (r : Response) : (s.respond r).pending = s.pending := rfl
@[simp] theorem State.respond_response (r : Response) : (s.respond r).response = some r := rfl
@[simp] theorem State.respond_delivered (r : Response) : (s.respond r).delivered = [] := rfl
@[simp] theorem State.respond_draws (r : Response) : (s.respond r).draws = s.draws := rfl

end Sys2Proof.Machine
end

