-- ==== Sys2Proof/Laws/Ops.lean ====
section
/-!
SUPPORT. Laws of the named operations: what a register reads after an update, what the stack operations, the skips, the flag writers, the
key skips and the byte loops can do. Later proofs cite these instead of unfolding the operations.
-/

namespace Sys2Proof.Machine

/-- A register reads what was last written to it; the others are left alone (R10). -/
@[simp] theorem State.reg_setReg (s : State) (x y : Nibble) (b : Byte) :
    (s.setReg x b).reg y = if y = x then b else s.reg y := by
  have hget : ∀ (v : Vector Byte 16), v.get y.toFin = v[y.toNat]'(y.isLt) := fun _ => rfl
  simp only [State.reg, State.setReg, hget, Vector.getElem_set]
  by_cases h : y = x
  · subst h; simp
  · rw [if_neg h, if_neg fun hx => h (BitVec.eq_of_toNat_eq hx.symm)]

/-- Two register files with the same sixteen registers are the same. -/
theorem State.v_ext {s t : State} (h : ∀ y, t.reg y = s.reg y) : t.v = s.v := by
  apply Vector.ext
  intro k hk
  have := h (BitVec.ofNat 4 k)
  have hfin : ∀ (v : Vector Byte 16), v.get (BitVec.ofNat 4 k).toFin = v[k]'hk := fun v => by
    show v[(BitVec.ofNat 4 k).toNat]'_ = v[k]
    simp only [BitVec.toNat_ofNat, Nat.mod_eq_of_lt (show k < 2 ^ 4 from hk)]
  simpa only [State.reg, hfin] using this

@[simp] theorem State.setPc_reg (s : State) (p : Word) (y : Nibble) : (s.setPc p).reg y = s.reg y := rfl
@[simp] theorem State.setI_reg (s : State) (a : Word) (y : Nibble) : (s.setI a).reg y = s.reg y := rfl
@[simp] theorem State.setMem_reg (s : State) (m : Memory) (y : Nibble) : (s.setMem m).reg y = s.reg y := rfl
@[simp] theorem State.setFb_reg (s : State) (fb : Framebuffer) (y : Nibble) : (s.setFb fb).reg y = s.reg y := rfl
@[simp] theorem State.setDt_reg (s : State) (b : Byte) (y : Nibble) : (s.setDt b).reg y = s.reg y := rfl
@[simp] theorem State.setHalt_reg (s : State) (h : Bool) (y : Nibble) : (s.setHalt h).reg y = s.reg y := rfl
@[simp] theorem State.setWake_reg (s : State) (w : Option (Fin 16)) (y : Nibble) : (s.setWake w).reg y = s.reg y := rfl
@[simp] theorem State.setKeypad_reg (s : State) (k : Word) (y : Nibble) : (s.setKeypad k).reg y = s.reg y := rfl
@[simp] theorem State.pushHost_reg (s : State) (e : Notification) (y : Nibble) : (s.pushHost e).reg y = s.reg y := rfl
@[simp] theorem State.countDraw_reg (s : State) (y : Nibble) : (s.countDraw).reg y = s.reg y := rfl
@[simp] theorem State.setStatus_reg (s : State) (st : Status) (y : Nibble) : (s.setStatus st).reg y = s.reg y := rfl
@[simp] theorem State.syncWriteSt_reg (s : State) (b : Byte) (y : Nibble) : (s.syncWriteSt b).reg y = s.reg y := rfl
@[simp] theorem State.clearStFlag_reg (s : State) (y : Nibble) : (s.clearStFlag).reg y = s.reg y := rfl
@[simp] theorem State.respond_reg (s : State) (r : Response) (y : Nibble) : (s.respond r).reg y = s.reg y := rfl

/-- Raising a fault is one next state: the same machine with the fault in `STATUS` (R206). -/
theorem raise_eq (f : Fault) (s : State) : raise f s = .next (s.setStatus (.faulted f)) := rfl

/-- Everything a push can do (R104). -/
theorem State.push_cases (s : State) (p : Word) :
    (s.sp.val < 16 ∧ ∃ s', s.push p = some s' ∧ s' = { s with stack := s'.stack, sp := s'.sp } ∧
      s'.sp.val = s.sp.val + 1 ∧
      ∀ k : Fin 16, s'.stack.get k = if k.val = s.sp.val then p else s.stack.get k) ∨
    (s.sp.val = 16 ∧ s.push p = none) := by
  by_cases h : s.sp.val < 16
  · refine .inl ⟨h, _, dif_pos h, rfl, rfl, fun k => ?_⟩
    show (s.stack.set s.sp.val p h)[k.val]'k.isLt = if k.val = s.sp.val then p else s.stack[k.val]'k.isLt
    rw [Vector.getElem_set]
    simp only [eq_comm (a := k.val)]
  · exact .inr ⟨by omega, dif_neg h⟩

/-- Everything a pop can do (R102). -/
theorem State.pop_cases (s : State) :
    (s.sp.val = 0 ∧ s.pop = none) ∨
    (∃ (k : Fin 16) (s' : State), s.sp.val = k.val + 1 ∧ s.pop = some (s.stack.get k, s') ∧
      s' = { s with sp := s'.sp } ∧ s'.sp.val = k.val) := by
  rcases hs : s.sp with ⟨n, hn⟩
  cases n with
  | zero => exact .inl ⟨rfl, by simp [State.pop, hs]⟩
  | succ k =>
    refine .inr ⟨⟨k, by omega⟩, { s with sp := ⟨k, by omega⟩ }, rfl, ?_, rfl, rfl⟩
    unfold State.pop
    rw [hs]
    rfl

/-- A skip instruction moves `PC` by two when its condition holds and changes nothing else (R93). -/
theorem State.skipIf_eq (s : State) (c : Bool) :
    s.skipIf c = s.setPc (if c then s.pc + 2 else s.pc) := by cases c <;> rfl

/-- The registers after a flag writer: the result wins over the flag where both go to `VF` (R134). -/
theorem flagThenResult_reg (s : State) (x : Nibble) (flag : Bool) (result : Byte) (y : Nibble) :
    (flagThenResult s x flag result).reg y =
      if y = x then result else if y = 15 then flagByte flag else s.reg y := by
  simp [flagThenResult]

/-- A flag writer changes registers alone (R120). -/
theorem flagThenResult_frame (s : State) (x : Nibble) (flag : Bool) (result : Byte) :
    flagThenResult s x flag result = { s with v := (flagThenResult s x flag result).v } := rfl

/-- Everything a key skip can do (R161, R162, R204). -/
theorem keySkip_cases (x : Nibble) (wanted : Bool) (s : State) :
    ((s.reg x).toNat ≤ 15 ∧
      keySkip x wanted s = .next (s.skipIf (keyPressed s.keypad (s.reg x).toNat == wanted))) ∨
    (15 < (s.reg x).toNat ∧
      keySkip x wanted s = .next (s.setStatus (.faulted (.invariantViolation s.pcFetch)))) := by
  by_cases h : (s.reg x).toNat ≤ 15
  · refine .inl ⟨h, if_pos ?_⟩
    simp [fieldFits]; omega
  · refine .inr ⟨by omega, if_neg ?_⟩
    simp [fieldFits]; omega

/-- What a loop of byte stores changes when it answers a next state: bytes in its range, and `STATUS` when it faults (R140). -/
theorem storeBytes_frame {bs : List Byte} : ∀ {a : Nat} {s t : State}, storeBytes bs a s = .next t →
    t = { s with mem := t.mem, status := t.status } ∧
    (∀ b, b < a ∨ a + bs.length ≤ b → t.byteAt b = s.byteAt b) ∧
    (Memory.wf s.mem → Memory.wf t.mem) ∧ (t.status = s.status ∨ ∃ f, t.status = .faulted f) := by
  induction bs with
  | nil =>
    intro a s t h
    cases h
    exact ⟨rfl, fun _ _ => rfl, id, .inl rfl⟩
  | cons c bs ih =>
    intro a s t h
    simp only [storeBytes] at h
    rcases Memory.write8_cases s.mem a c with ⟨ha, he⟩ | ⟨_, he⟩
    · rw [he] at h
      obtain ⟨h1, h2, h3, h4⟩ := ih h
      refine ⟨h1, fun b hb => ?_, fun hw => h3 (Memory.wf_set hw c ha), h4⟩
      rw [h2 b (by simp only [List.length_cons] at hb; omega)]
      exact Memory.get_set_ne _ _ (by simp only [List.length_cons] at hb; omega)
    · rw [he] at h
      cases h
      exact ⟨rfl, fun _ _ => rfl, id, .inr ⟨_, rfl⟩⟩

/-- What the loop of `save` changes (R145). -/
theorem saveRegs_frame {rs : List Nibble} : ∀ {s t : State}, saveRegs rs s = .next t →
    t = { s with mem := t.mem, i := t.i, status := t.status } ∧
    (∀ b, b < s.i.toNat ∨ s.i.toNat + rs.length ≤ b → t.byteAt b = s.byteAt b) ∧
    (Memory.wf s.mem → Memory.wf t.mem) ∧ (t.status = s.status ∨ ∃ f, t.status = .faulted f) := by
  induction rs with
  | nil =>
    intro s t h
    cases h
    exact ⟨rfl, fun _ _ => rfl, id, .inl rfl⟩
  | cons r rs ih =>
    intro s t h
    simp only [saveRegs] at h
    rcases Memory.write8_cases s.mem (effAddr s 0) (s.reg r) with ⟨ha, he⟩ | ⟨_, he⟩
    · rw [he] at h
      obtain ⟨h1, h2, h3, h4⟩ := ih h
      have hi : (s.i + 1).toNat = s.i.toNat + 1 := by simp [effAddr] at ha; bv_omega
      refine ⟨h1, fun b hb => ?_, fun hw => h3 (Memory.wf_set hw _ ha), h4⟩
      simp only [List.length_cons] at hb
      rw [h2 b (by simp only [State.setI_i, hi]; omega)]
      exact Memory.get_set_ne _ _ (by simp only [effAddr]; omega)
    · rw [he] at h
      cases h
      exact ⟨rfl, fun _ _ => rfl, id, .inr ⟨_, rfl⟩⟩

/-- What the loop of `load` changes (R146). -/
theorem loadRegs_frame {rs : List Nibble} : ∀ {s t : State}, loadRegs rs s = .next t →
    t = { s with v := t.v, i := t.i, status := t.status } ∧
    (∀ y, y ∉ rs → t.reg y = s.reg y) ∧ (t.status = s.status ∨ ∃ f, t.status = .faulted f) := by
  induction rs with
  | nil =>
    intro s t h
    cases h
    exact ⟨rfl, fun _ _ => rfl, .inl rfl⟩
  | cons r rs ih =>
    intro s t h
    simp only [loadRegs] at h
    rcases Memory.read8_cases s.mem (effAddr s 0) with ⟨ha, he⟩ | ⟨_, he⟩
    · rw [he] at h
      obtain ⟨h1, h2, h3⟩ := ih h
      refine ⟨h1, fun y hy => ?_, h3⟩
      rw [h2 y (fun hm => hy (List.mem_cons_of_mem _ hm))]
      have : y ≠ r := fun hr => hy (hr ▸ List.mem_cons_self)
      simp [this]
    · rw [he] at h
      cases h
      exact ⟨rfl, fun _ _ => rfl, .inr ⟨_, rfl⟩⟩

/-- What an `Input` event changes (R165). -/
theorem inputEvent_frame (key : Fin 16) (pressed : Bool) (s : State) :
    inputEvent key pressed s =
      { s with
        keypad := writeField s.keypad key.val 1 (if pressed then 1 else 0)
        halt := if s.halt && pressed then false else s.halt
        wake := if s.halt && pressed then some key else s.wake } := by
  unfold inputEvent
  by_cases h : (s.halt && pressed) = true <;> simp only [h, if_true] <;> rfl

/-- What a sound tick changes (R217). -/
theorem soundTick_frame (s : State) :
    soundTick s = { s with st := (soundTick s).st, stFlag := false, qHost := (soundTick s).qHost } := by
  unfold soundTick soundDecrement
  by_cases h : s.st = 0 <;> simp only [h, if_true, if_false] <;> split <;> rfl

/-- What a timer tick changes (R216). -/
theorem timerTick_frame (s : State) : timerTick s = { s with dt := (timerTick s).dt } := by
  unfold timerTick
  split <;> rfl

end Sys2Proof.Machine
end

