-- ==== Sys2Proof/Laws/Display.lean ====
section
/-!
SUPPORT. Laws of the blit (44_display.md R150 to R155): a row, and then a run of rows, changes the framebuffer by the picture of
the sprite, and the collision flag says whether a set pixel met a set sprite bit.
-/

namespace Sys2Proof.Machine

@[simp] theorem Framebuffer.pixel_setPixel (fb : Framebuffer) (py qy : Fin 32) (px qx : Fin 64) (b : Bool) :
    Framebuffer.pixel (Framebuffer.setPixel fb py px b) qy qx =
      if qy = py ∧ qx = px then b else Framebuffer.pixel fb qy qx := by
  have hget : ∀ (r : Vector Bool 64) (k : Fin 64), r.get k = r[k.val]'k.isLt := fun _ _ => rfl
  have hrow : ∀ (f : Framebuffer) (k : Fin 32), Vector.get f k = f[k.val]'k.isLt := fun _ _ => rfl
  simp only [Framebuffer.pixel, Framebuffer.setPixel, hrow, hget, Vector.getElem_set]
  by_cases hy : qy = py
  · subst hy
    by_cases hx : qx = px
    · subst hx; simp
    · have : px.val ≠ qx.val := fun h => hx (Fin.ext h.symm)
      simp [hx, this]
  · have : py.val ≠ qy.val := fun h => hy (Fin.ext h.symm)
    simp [hy, this]

/-- A sprite bit as a bit (R150). -/
theorem spriteBit_eq (b : Byte) (col : Nat) : spriteBit b col = b.getLsbD (7 - col) := by
  have h : readField b (7 - col) 1 = if b.getLsbD (7 - col) then 1#8 else 0#8 := by
    have hbit : b.getLsbD (7 - col) = decide (b.toNat / 2 ^ (7 - col) % 2 = 1) := Nat.testBit_eq_decide_div_mod_eq
    apply BitVec.eq_of_toNat_eq
    simp only [readField, fieldMask, BitVec.toNat_and, BitVec.toNat_ushiftRight, hbit]
    rw [show (BitVec.ofNat 8 (2 ^ 1 - 1)).toNat = 2 ^ 1 - 1 from rfl, Nat.and_two_pow_sub_one_eq_mod,
      Nat.shiftRight_eq_div_pow]
    by_cases hb : b.toNat / 2 ^ (7 - col) % 2 = 1
    · simp [hb]
    · have : b.toNat / 2 ^ (7 - col) % 2 = 0 := by omega
      simp [this]
  rw [spriteBit, h]
  by_cases hb : b.getLsbD (7 - col) = true <;> simp [hb]

/-- The columns `0 .. k - 1` of a sprite row `b` that starts at `(x, y)`, as a picture. -/
def rowCovers (x y : Nat) (b : Byte) (k : Nat) (py : Fin 32) (px : Fin 64) : Bool :=
  decide (wrapY y = py ∧ spriteCol x px < k) && b.getLsbD (7 - spriteCol x px)

theorem wrapX_eq_iff (x : Nat) {k : Nat} (hk : k < 64) (px : Fin 64) : wrapX (x + k) = px ↔ spriteCol x px = k := by
  have := px.isLt
  simp only [wrapX, spriteCol, Fin.ext_iff, Config.fbW]
  omega

theorem wrapY_eq_iff (y : Nat) {k : Nat} (hk : k < 32) (py : Fin 32) : wrapY (y + k) = py ↔ spriteRow y py = k := by
  have := py.isLt
  simp only [wrapY, spriteRow, Fin.ext_iff, Config.fbH]
  omega

/-- The first `k` columns of a sprite row (R153). -/
theorem blitCols {x y : Nat} {b : Byte} {p : Blit} : ∀ {k : Nat}, k ≤ 8 →
    (∀ py px, Framebuffer.pixel ((List.range k).foldl (blitPixel x y b) p).fb py px =
      (Framebuffer.pixel p.fb py px ^^ rowCovers x y b k py px)) ∧
    (((List.range k).foldl (blitPixel x y b) p).hit = true ↔
      p.hit = true ∨ ∃ py px, Framebuffer.pixel p.fb py px = true ∧ rowCovers x y b k py px = true) := by
  intro k
  induction k with
  | zero => exact fun _ => ⟨fun py px => by simp [rowCovers], by simp [rowCovers]⟩
  | succ k ih =>
    intro hk
    obtain ⟨h1, h2⟩ := ih (by omega)
    rw [List.range_succ, List.foldl_append]
    simp only [List.foldl_cons, List.foldl_nil]
    generalize (List.range k).foldl (blitPixel x y b) p = q at h1 h2
    have hsplit : ∀ py px, rowCovers x y b (k + 1) py px =
        (rowCovers x y b k py px || (decide (wrapY y = py ∧ wrapX (x + k) = px) && b.getLsbD (7 - k))) := by
      intro py px
      simp only [rowCovers, wrapX_eq_iff x (show k < 64 by omega)]
      rcases Nat.lt_trichotomy (spriteCol x px) k with h | h | h
      · have h' : spriteCol x px < k + 1 := by omega
        have h'' : spriteCol x px ≠ k := by omega
        simp [h, h', h'']
      · simp [h]
      · have h' : ¬ spriteCol x px < k + 1 := by omega
        have h'' : spriteCol x px ≠ k := by omega
        have h3 : ¬ spriteCol x px < k := by omega
        simp [h', h'', h3]
    have hnew : rowCovers x y b k (wrapY y) (wrapX (x + k)) = false := by
      have := (wrapX_eq_iff x (show k < 64 by omega) (wrapX (x + k))).mp rfl
      simp [rowCovers, this]
    by_cases hb : b.getLsbD (7 - k) = true
    · have hq : blitPixel x y b q k =
          { fb := Framebuffer.setPixel q.fb (wrapY y) (wrapX (x + k)) (!Framebuffer.pixel q.fb (wrapY y) (wrapX (x + k)))
            hit := q.hit || Framebuffer.pixel q.fb (wrapY y) (wrapX (x + k)) } := by
        simp [blitPixel, spriteBit_eq, hb, collides]
      rw [hq]
      refine ⟨fun py px => ?_, ?_⟩
      · simp only [Framebuffer.pixel_setPixel, hsplit, hb, h1]
        by_cases he : py = wrapY y ∧ px = wrapX (x + k)
        · obtain ⟨rfl, rfl⟩ := he
          simp [hnew]
        · have he' : ¬ (wrapY y = py ∧ wrapX (x + k) = px) := fun h => he ⟨h.1.symm, h.2.symm⟩
          simp [he, he']
      · simp only [Bool.or_eq_true, h2, h1, hnew, Bool.xor_false, hsplit, hb, Bool.and_true, decide_eq_true_eq]
        constructor
        · rintro ((h | ⟨py, px, h3, h4⟩) | h)
          · exact .inl h
          · exact .inr ⟨py, px, h3, .inl h4⟩
          · exact .inr ⟨_, _, h, .inr ⟨rfl, rfl⟩⟩
        · rintro (h | ⟨py, px, h3, h4 | ⟨rfl, rfl⟩⟩)
          · exact .inl (.inl h)
          · exact .inl (.inr ⟨py, px, h3, h4⟩)
          · exact .inr h3
    · have hq : blitPixel x y b q k = q := by simp [blitPixel, spriteBit_eq, hb]
      have hb' : b.getLsbD (7 - k) = false := by simpa using hb
      rw [hq]
      simp only [hsplit, hb', Bool.and_false, Bool.or_false]
      exact ⟨h1, h2⟩

/-- The rows `row .. row + left - 1` of the sprite at `a`, as a picture. -/
def rowsCover (m : Memory) (a x y left row : Nat) (py : Fin 32) (px : Fin 64) : Bool :=
  decide (row ≤ spriteRow y py ∧ spriteRow y py < row + left ∧ spriteCol x px < 8) &&
    (Memory.get m (a + spriteRow y py)).getLsbD (7 - spriteCol x px)

/-- Everything a run of sprite rows does when every row byte is inside `MEM` (R153). -/
theorem blitRows_ok {m : Memory} {a x y : Nat} : ∀ {left row : Nat} {p : Blit}, row + left ≤ 32 →
    (left = 0 ∨ a + row + left ≤ 4096) →
    ∃ q, blitRows m a x y left row p = (q, none) ∧
      (∀ py px, Framebuffer.pixel q.fb py px = (Framebuffer.pixel p.fb py px ^^ rowsCover m a x y left row py px)) ∧
      (q.hit = true ↔
        p.hit = true ∨ ∃ py px, Framebuffer.pixel p.fb py px = true ∧ rowsCover m a x y left row py px = true) := by
  intro left
  induction left with
  | zero =>
    intro row p _ _
    have h0 : ∀ py px, rowsCover m a x y 0 row py px = false := fun py px => by
      have : ¬ (row ≤ spriteRow y py ∧ spriteRow y py < row + 0 ∧ spriteCol x px < 8) := by omega
      simp only [rowsCover, this, decide_false, Bool.false_and]
    exact ⟨p, rfl, fun py px => by simp [h0], by simp [h0]⟩
  | succ left ih =>
    intro row p hr ha
    have ha : a + row + left < 4096 := by omega
    obtain ⟨c1, c2⟩ := blitCols (x := x) (y := y + row) (b := Memory.get m (a + row)) (p := p) (Nat.le_refl 8)
    obtain ⟨q, h1, h2, h3⟩ := ih (row := row + 1) (p := blitRow x (y + row) (Memory.get m (a + row)) p)
      (by omega) (by omega)
    have hrow : blitRow x (y + row) (Memory.get m (a + row)) p =
        (List.range 8).foldl (blitPixel x (y + row) (Memory.get m (a + row))) p := rfl
    rw [hrow] at h2 h3
    have hsplit : ∀ py px, rowsCover m a x y (left + 1) row py px =
        (rowCovers x (y + row) (Memory.get m (a + row)) 8 py px || rowsCover m a x y left (row + 1) py px) := by
      intro py px
      simp only [rowCovers, rowsCover, wrapY_eq_iff y (show row < 32 by omega)]
      by_cases he : spriteRow y py = row
      · have h' : ¬ (row + 1 ≤ row) := by omega
        simp [he, h']
      · have e1 : (row ≤ spriteRow y py ∧ spriteRow y py < row + (left + 1) ∧ spriteCol x px < 8) ↔
            (row + 1 ≤ spriteRow y py ∧ spriteRow y py < row + 1 + left ∧ spriteCol x px < 8) := by omega
        simp [he, e1]
    have hdisj : ∀ py px, rowCovers x (y + row) (Memory.get m (a + row)) 8 py px = true →
        rowsCover m a x y left (row + 1) py px = false := by
      intro py px h
      simp only [rowCovers, wrapY_eq_iff y (show row < 32 by omega), Bool.and_eq_true, decide_eq_true_eq] at h
      have : ¬ (row + 1 ≤ spriteRow y py ∧ spriteRow y py < row + 1 + left ∧ spriteCol x px < 8) := by omega
      simp only [rowsCover, this, decide_false, Bool.false_and]
    refine ⟨q, ?_, fun py px => ?_, ?_⟩
    · simp only [blitRows, Memory.read8_ok (m := m) (show a + row < 4096 by omega), h1]
    · rw [h2, c1, hsplit]
      have := hdisj py px
      cases hc : rowCovers x (y + row) (Memory.get m (a + row)) 8 py px
      · simp
      · simp [this hc]
    · rw [h3, c2]
      simp only [c1, hsplit, Bool.or_eq_true]
      constructor
      · rintro ((h | ⟨py, px, h4, h5⟩) | ⟨py, px, h4, h5⟩)
        · exact .inl h
        · exact .inr ⟨py, px, h4, .inl h5⟩
        · refine .inr ⟨py, px, ?_, .inr h5⟩
          cases hc : rowCovers x (y + row) (Memory.get m (a + row)) 8 py px
          · simpa [hc] using h4
          · simp [hdisj py px hc] at h5
      · rintro (h | ⟨py, px, h4, h5 | h5⟩)
        · exact .inl (.inl h)
        · exact .inl (.inr ⟨py, px, h4, h5⟩)
        · refine .inr ⟨py, px, ?_, h5⟩
          cases hc : rowCovers x (y + row) (Memory.get m (a + row)) 8 py px
          · simpa using h4
          · simp [hdisj py px hc] at h5

/-- A run of rows in two parts. -/
theorem blitRows_add {m : Memory} {a x y : Nat} : ∀ {l1 l2 row : Nat} {p q : Blit},
    blitRows m a x y l1 row p = (q, none) → blitRows m a x y (l1 + l2) row p = blitRows m a x y l2 (row + l1) q := by
  intro l1
  induction l1 with
  | zero =>
    intro l2 row p q h
    cases h
    rw [Nat.zero_add]
    rfl
  | succ l1 ih =>
    intro l2 row p q h
    rw [show l1 + 1 + l2 = l1 + l2 + 1 by omega]
    simp only [blitRows] at h ⊢
    cases hr : Memory.read8 m (a + row) with
    | error f => rw [hr] at h; cases h
    | ok b =>
      rw [hr] at h
      simp only at h ⊢
      rw [ih h, show row + 1 + l1 = row + (l1 + 1) by omega]

/-- What a run of sprite rows does when a row byte is outside `MEM`: the rows before it are drawn, then `OutOfBounds` (R153, R203). -/
theorem blitRows_fault {m : Memory} {a x y n : Nat} {p : Blit} (hn : n ≠ 0) (hn32 : n ≤ 32) (h : 4096 < a + n) :
    ∃ q, blitRows m a x y n 0 p = (q, some (.outOfBounds (max a 4096) 1)) ∧
      (∀ py px, Framebuffer.pixel q.fb py px =
        (Framebuffer.pixel p.fb py px ^^ rowsCover m a x y (4096 - a) 0 py px)) ∧
      (q.hit = true ↔ p.hit = true ∨
        ∃ py px, Framebuffer.pixel p.fb py px = true ∧ rowsCover m a x y (4096 - a) 0 py px = true) := by
  have hlt : 4096 - a < n := by omega
  obtain ⟨q, h1, h2, h3⟩ := blitRows_ok (m := m) (a := a) (x := x) (y := y) (left := 4096 - a) (row := 0) (p := p)
    (by omega) (by omega)
  refine ⟨q, ?_, h2, h3⟩
  obtain ⟨l, hl⟩ : ∃ l, n = 4096 - a + (l + 1) := ⟨n - (4096 - a) - 1, by omega⟩
  rw [hl, blitRows_add h1, Nat.zero_add]
  simp only [blitRows, Memory.read8_error (m := m) (show 4096 ≤ a + (4096 - a) by omega)]
  rw [show a + (4096 - a) = max a 4096 by omega]

end Sys2Proof.Machine
end

