-- ==== Sys2Proof/Laws/Encoding.lean ====
section
/-!
SUPPORT. Words and fields as numbers (30_encoding.md R71, R72): a field of a word is a quotient and a remainder, and each format is a sum. Facts about
decode and encode then follow by arithmetic.
-/

namespace Sys2Proof

open Sys2Proof.Machine

/-- The mask of a field keeps the value modulo the field's size (R43). -/
theorem toNat_and_fieldMask {w : Nat} (v : BitVec w) (length : Nat) :
    (v &&& fieldMask w length).toNat = v.toNat % 2 ^ length := by
  rw [fieldMask, BitVec.toNat_and, BitVec.toNat_ofNat]
  rcases Nat.lt_or_ge length w with h | h
  · rw [Nat.mod_eq_of_lt (Nat.lt_of_le_of_lt (Nat.sub_le _ _) (Nat.pow_lt_pow_right (by decide) h)),
      Nat.and_two_pow_sub_one_eq_mod]
  · have hv : v.toNat < 2 ^ length := Nat.lt_of_lt_of_le v.isLt (Nat.pow_le_pow_right (by decide) h)
    have hm : (2 ^ length - 1) % 2 ^ w = 2 ^ w - 1 := by
      obtain ⟨d, rfl⟩ := Nat.exists_eq_add_of_le h
      rw [Nat.pow_add]
      have h1 : 0 < 2 ^ w := Nat.two_pow_pos w
      have h2 : 0 < 2 ^ d := Nat.two_pow_pos d
      obtain ⟨e, he⟩ : ∃ e, 2 ^ d = e + 1 := ⟨2 ^ d - 1, by omega⟩
      have : 2 ^ w * 2 ^ d - 1 = 2 ^ w - 1 + 2 ^ w * e := by
        rw [he, Nat.mul_add]; omega
      rw [this, Nat.add_mul_mod_self_left, Nat.mod_eq_of_lt (by omega)]
    rw [hm, Nat.and_two_pow_sub_one_eq_mod, Nat.mod_eq_of_lt v.isLt, Nat.mod_eq_of_lt hv]

/-- `read_bitfield` as a number (R43). -/
theorem readField_toNat {w : Nat} (v : BitVec w) (start length : Nat) :
    (readField v start length).toNat = v.toNat / 2 ^ start % 2 ^ length := by
  rw [readField, toNat_and_fieldMask, BitVec.toNat_ushiftRight, Nat.shiftRight_eq_div_pow]

/-- An instruction field as a number (R71). -/
theorem instrField_toNat (w : Word) (start length : Nat) :
    (instrField w start length).toNat = w.toNat / 2 ^ start % 2 ^ length := by
  rw [instrField, BitVec.toNat_setWidth, readField_toNat, Nat.mod_mod]

theorem toNat_append' {m n : Nat} (x : BitVec m) (y : BitVec n) :
    (x ++ y).toNat = x.toNat * 2 ^ n + y.toNat := by
  rw [BitVec.toNat_append, ← Nat.shiftLeft_add_eq_or_of_lt y.isLt, Nat.shiftLeft_eq]

/-- Format A as a number (R72). -/
theorem encodeA_toNat (op : Nibble) (nnn : Addr) : (encodeA op nnn).toNat = op.toNat * 4096 + nnn.toNat :=
  toNat_append' op nnn

/-- Formats XK and X as a number (R72). -/
theorem encodeXK_toNat (op x : Nibble) (kk : Byte) :
    (encodeXK op x kk).toNat = op.toNat * 4096 + x.toNat * 256 + kk.toNat := by
  rw [encodeXK, toNat_append', toNat_append']
  omega

/-- Formats XY and XYN as a number (R72). -/
theorem encodeXYN_toNat (op x y n : Nibble) :
    (encodeXYN op x y n).toNat = op.toNat * 4096 + x.toNat * 256 + y.toNat * 16 + n.toNat := by
  rw [encodeXYN, toNat_append', toNat_append', toNat_append']
  omega

theorem fieldOp_toNat (w : Word) : (fieldOp w).toNat = w.toNat / 4096 := by
  have := w.isLt
  rw [fieldOp, instrField_toNat]
  omega

theorem fieldX_toNat (w : Word) : (fieldX w).toNat = w.toNat / 256 % 16 := instrField_toNat w 8 4
theorem fieldY_toNat (w : Word) : (fieldY w).toNat = w.toNat / 16 % 16 := instrField_toNat w 4 4
theorem fieldN_toNat (w : Word) : (fieldN w).toNat = w.toNat % 16 := by
  rw [fieldN, instrField_toNat]
  omega
theorem fieldKk_toNat (w : Word) : (fieldKk w).toNat = w.toNat % 256 := by
  rw [fieldKk, instrField_toNat]
  omega
theorem fieldNnn_toNat (w : Word) : (fieldNnn w).toNat = w.toNat % 4096 := by
  rw [fieldNnn, instrField_toNat]
  omega

/-- The bytes of a word in memory order give the word back (R49, R50). -/
theorem wordOfBytes_bytes (w : Word) : wordOfBytes (highByte w) (lowByte w) = w := by
  apply BitVec.eq_of_toNat_eq
  have := w.isLt
  rw [wordOfBytes, toNat_append', highByte, lowByte, BitVec.extractLsb'_toNat, BitVec.extractLsb'_toNat,
    Nat.shiftRight_eq_div_pow, Nat.shiftRight_eq_div_pow]
  omega

end Sys2Proof
end

