-- ==== Sys2Proof/Laws/Frame.lean ====
section
/-!
SUPPORT. Laws of a frame (46_clock_and_events.md R178 to R183): what phase 1 changes, what the choice of a controller answers, and what a
memory loaded by `reset` is.
-/

namespace Sys2Proof.Machine

/-- The ticks of a controller depend on its accumulator and its bias alone (R178). -/
theorem ticksFor_congr {a b : State} {c : Ctrl} (micros : Nat) (hacc : a.acc c = b.acc c) (hbias : a.bias c = b.bias c) :
    ticksFor a c micros = ticksFor b c micros := by
  unfold ticksFor
  rw [hacc, hbias]

/-- The whole ticks and the remainder, each in its range and the remainder in the format (R172, R178). -/
theorem ticksFor_spec (s : State) (c : Ctrl) (micros : Nat) :
    (ticksFor s c micros).1 * F64.oneUnits + (ticksFor s c micros).2.units =
      (produce (s.acc c) micros (effectiveRate c (s.bias c))).units ∧
    (ticksFor s c micros).2.units < F64.oneUnits ∧ (ticksFor s c micros).2.representable := by
  unfold ticksFor
  generalize hp : produce (s.acc c) micros (effectiveRate c (s.bias c)) = p
  have hr : p.representable := by
    rw [← hp]
    unfold produce F64.add
    exact F64.round_representable _ _
  refine ⟨?_, Nat.mod_lt _ F64.oneUnits_pos, F64.fract_representable hr⟩
  show p.units / F64.oneUnits * F64.oneUnits + p.units % F64.oneUnits = p.units
  rw [Nat.mul_comm]
  exact Nat.div_add_mod _ _

/-- Everything phase 1 changes (R182). -/
theorem tickGeneration_eq (micros : Nat) (s : State) :
    tickGeneration micros s =
      { s with
        accCpu := (ticksFor s .cpu micros).2
        accSound := (ticksFor s .sound micros).2
        accTimer := (ticksFor s .timer micros).2
        qCpu := s.qCpu ++ [.tick (ticksFor s .cpu micros).1]
        qSound := s.qSound ++ [(ticksFor s .sound micros).1]
        qTimer := s.qTimer ++ [(ticksFor s .timer micros).1] } := by
  obtain ⟨n, a, h0⟩ : ∃ n a, ticksFor s .cpu micros = (n, a) := ⟨_, _, rfl⟩
  have e0 : generateTickEvent s .cpu micros = (s.setAcc .cpu a).enqueueTick .cpu n := by
    unfold generateTickEvent
    rw [h0]
  have h1 : ticksFor ((s.setAcc .cpu a).enqueueTick .cpu n) .sound micros = ticksFor s .sound micros :=
    ticksFor_congr micros rfl rfl
  obtain ⟨n', a', h1'⟩ : ∃ n a, ticksFor s .sound micros = (n, a) := ⟨_, _, rfl⟩
  have e1 : generateTickEvent ((s.setAcc .cpu a).enqueueTick .cpu n) .sound micros =
      (((s.setAcc .cpu a).enqueueTick .cpu n).setAcc .sound a').enqueueTick .sound n' := by
    unfold generateTickEvent
    rw [h1, h1']
  have h2 : ticksFor ((((s.setAcc .cpu a).enqueueTick .cpu n).setAcc .sound a').enqueueTick .sound n') .timer micros =
      ticksFor s .timer micros := ticksFor_congr micros rfl rfl
  obtain ⟨n'', a'', h2'⟩ : ∃ n a, ticksFor s .timer micros = (n, a) := ⟨_, _, rfl⟩
  unfold tickGeneration
  rw [e0, e1, generateTickEvent, h2, h0, h1', h2']
  rfl

/-- A queue that is not full has room (R177). -/
theorem queueFull_eq_false {s : State} {c : Ctrl} (h : s.queueFull c = false) : s.queueLength c < Config.queueCap :=
  Nat.lt_of_not_le (of_decide_eq_false h)

/-- Everything `run` can do on a running block (R182, R189): refuse on a full queue, or phase 1 and the controllers next. A proof that goes on
from here does well to generalise the three `ticksFor` first: the kernel must not start computing them. -/
theorem hostRun_running {s : State} (micros : Nat) (h : s.status = .running) :
    (∃ c, s.queueFull c = true ∧ hostRun micros s = .refused (.queueFull c)) ∨
    ((∀ c, s.queueLength c < Config.queueCap) ∧
      hostRun micros s = .next
        { s with
          accCpu := (ticksFor s .cpu micros).2
          accSound := (ticksFor s .sound micros).2
          accTimer := (ticksFor s .timer micros).2
          qCpu := s.qCpu ++ [.tick (ticksFor s .cpu micros).1]
          qSound := s.qSound ++ [(ticksFor s .sound micros).1]
          qTimer := s.qTimer ++ [(ticksFor s .timer micros).1]
          phase := .dispatch
          response := none
          delivered := [] }) := by
  have hrun : hostRun micros s =
      match firstFullQueue s with
      | some c => .refused (.queueFull c)
      | none => .next { tickGeneration micros s with phase := .dispatch, response := none, delivered := [] } := by
    unfold hostRun
    split
    · next h' => rw [h] at h'; cases h'
    · next h' => rw [h] at h'; cases h'
    · rfl
  rw [hrun, tickGeneration_eq]
  cases hf : firstFullQueue s with
  | some c => exact .inl ⟨c, List.find?_some hf, rfl⟩
  | none =>
    refine .inr ⟨fun c => queueFull_eq_false ?_, rfl⟩
    have hc : c ∈ [Ctrl.cpu, Ctrl.sound, Ctrl.timer] := by cases c <;> simp
    have := List.find?_eq_none.mp hf c hc
    simpa using this

/-- Everything the choice of a controller can answer (R183, R222): none when no controller has work; else one with work, and the state is
unchanged but for the count of free values. -/
theorem pickController_cases (s : State) :
    (pickController s = none ∧ ∀ c, s.hasWork c = false) ∨
    ∃ c s', pickController s = some (c, s') ∧ s.hasWork c = true ∧ (s' = s ∨ s' = s.countDraw) := by
  have hmem : ∀ c, c ∈ s.runnable ↔ s.hasWork c = true := by
    intro c
    simp only [State.runnable, List.mem_filter]
    cases c <;> simp
  cases hr : s.runnable with
  | nil =>
    refine .inl ⟨by unfold pickController; rw [hr], fun c => ?_⟩
    by_contra hc
    have := (hmem c).mpr (by simpa using hc)
    rw [hr] at this
    cases this
  | cons c cs =>
    refine .inr ?_
    cases hm : s.dispatchMode with
    | sequential =>
      exact ⟨c, s, by unfold pickController; rw [hm, hr], (hmem c).mp (hr ▸ List.mem_cons_self), .inl rfl⟩
    | concurrent =>
      refine ⟨_, s.countDraw, by unfold pickController; rw [hm, hr], (hmem _).mp ?_, .inr rfl⟩
      rw [hr]
      have hlt : Config.schedule s.draws % (c :: cs).length < (c :: cs).length := Nat.mod_lt _ (by simp)
      rw [List.getD_eq_getElem _ _ hlt]
      exact List.getElem_mem hlt

/-- Everything a load by `reset` can do (R231): the form is kept, and each byte is the font's, the image's or what the empty memory holds. -/
theorem Memory.load_ok {font image : List Byte} {m : Memory} (h : Memory.load font image = .ok m) :
    Memory.wf m ∧ ∀ a, Memory.get m a =
      if 0x200 ≤ a ∧ a < 0x200 + image.length then image.getD (a - 0x200) 0
      else if a < font.length then font.getD a 0 else bootByte a := by
  simp only [Memory.load] at h
  split at h
  · cases h
  · next m1 h1 =>
    obtain ⟨w1, _, g1⟩ := Memory.writeSlice_ok Memory.wf_nil h1
    obtain ⟨w2, _, g2⟩ := Memory.writeSlice_ok w1 h
    refine ⟨w2, fun a => ?_⟩
    rw [g2, g1]
    simp

/-- A dump changes nothing but the response, and on a block that was reset and a file that can be written it answers the 4096 bytes (R191). -/
theorem hostDump_cases (writable : Bool) (s : State) :
    (s.status = .uninitialized ∧ hostDump writable s = .next (s.respond .notInitialized)) ∨
    (s.status ≠ .uninitialized ∧ writable = true ∧
      hostDump writable s = .next (s.respond (.image ((List.range 4096).map s.byteAt)))) ∨
    (s.status ≠ .uninitialized ∧ writable = false ∧ hostDump writable s = .next (s.respond (.hostIO .dumpFailed))) := by
  have hslice := Memory.readSlice_ok (count := Config.memSize) s.mem (a := 0) (by simp)
  simp only [Nat.zero_add] at hslice
  unfold hostDump
  rw [hslice]
  show _ ∨ (_ ∧ _ ∧ _ = Host.Outcome.next (s.respond (.image ((List.range 4096).map fun k => Memory.get s.mem k)))) ∨ _
  generalize (List.range 4096).map (fun k => Memory.get s.mem k) = bytes
  cases s.status with
  | uninitialized => exact .inl ⟨rfl, rfl⟩
  | running => cases writable <;> simp
  | faulted f => cases writable <;> simp

end Sys2Proof.Machine
end

