-- ==== Sys2Proof/Laws/Loops.lean ====
section
/-!
SUPPORT. Laws of the byte loops of `bcd`, `save` and `load` (43_index_memory.md R140, R144 to R146): what each does when it fits in `MEM`, and
the fault it raises when it does not. A register range is the registers numbered `k`, `k + 1`, ..., `k + m - 1`.
-/

namespace Sys2Proof.Machine

/-- The registers from number `k` on, `m` of them. -/
def regsFrom (k m : Nat) : List Nibble := (List.range' k m).map (BitVec.ofNat 4)

theorem regsUpTo_eq (x : Nibble) : regsUpTo x = regsFrom 0 (x.toNat + 1) := by
  rw [regsUpTo, regsFrom, List.range_eq_range']

theorem regsFrom_succ (k m : Nat) : regsFrom k (m + 1) = BitVec.ofNat 4 k :: regsFrom (k + 1) m := by
  simp [regsFrom, List.range'_succ]

theorem regsFrom_length (k m : Nat) : (regsFrom k m).length = m := by simp [regsFrom]

/-- A step of `I` inside `MEM` does not wrap. -/
theorem toNat_succ_of_lt {a : Word} (h : a.toNat < 4096) : (a + 1).toNat = a.toNat + 1 := by
  rw [BitVec.toNat_add, show (1 : Word).toNat = 1 from rfl]
  omega

theorem step_then_steps (a : Word) (m : Nat) : a + 1 + BitVec.ofNat 16 m = a + BitVec.ofNat 16 (m + 1) := by
  apply BitVec.eq_of_toNat_eq
  simp only [BitVec.toNat_add, BitVec.toNat_ofNat, show (1 : Word).toNat = 1 from rfl]
  omega

theorem toNat_ofNat4 {k : Nat} (h : k < 16) : (BitVec.ofNat 4 k).toNat = k := by
  rw [BitVec.toNat_ofNat]; omega

/-- Everything `storeBytes` does when every byte fits (R140). -/
theorem storeBytes_ok {bs : List Byte} : ∀ {a : Nat} {s : State}, Memory.wf s.mem → a + bs.length ≤ 4096 →
    ∃ m, storeBytes bs a s = .next (s.setMem m) ∧ Memory.wf m ∧
      ∀ b, Memory.get m b = if a ≤ b ∧ b < a + bs.length then bs.getD (b - a) 0 else s.byteAt b := by
  induction bs with
  | nil =>
    intro a s hw _
    exact ⟨s.mem, rfl, hw, fun b => by rw [if_neg (by simp only [List.length_nil]; omega)]; rfl⟩
  | cons c bs ih =>
    intro a s hw h
    simp only [List.length_cons] at h
    simp only [storeBytes, Memory.write8_ok c (show a < 4096 by omega)]
    obtain ⟨m, h1, h2, h3⟩ := ih (s := s.setMem (Memory.set s.mem a c)) (a := a + 1)
      (Memory.wf_set hw c (show a < 4096 by omega)) (by omega)
    refine ⟨m, h1, h2, fun b => ?_⟩
    rw [h3 b]
    simp only [List.length_cons]
    by_cases hb : a + 1 ≤ b ∧ b < a + 1 + bs.length
    · rw [if_pos hb, if_pos (by omega)]
      obtain ⟨k, hk⟩ : ∃ k, b - a = k + 1 := ⟨b - a - 1, by omega⟩
      rw [hk, show b - (a + 1) = k by omega]
      rfl
    · rw [if_neg hb]
      by_cases he : b = a
      · subst he
        rw [if_pos (by omega), Nat.sub_self]
        exact Memory.get_set_same hw b c
      · rw [if_neg (by omega)]
        exact Memory.get_set_ne _ c he

/-- What `storeBytes` does when a byte does not fit: the bytes below 4096 are stored, then `OutOfBounds` at the first address of 4096 or more
(R140, R203). -/
theorem storeBytes_fault {bs : List Byte} : ∀ {a : Nat} {s : State}, Memory.wf s.mem → bs ≠ [] → 4096 < a + bs.length →
    ∃ m, storeBytes bs a s = .next ((s.setMem m).setStatus (.faulted (.outOfBounds (max a 4096) 1))) ∧
      ∀ b, Memory.get m b = if a ≤ b ∧ b < 4096 then bs.getD (b - a) 0 else s.byteAt b := by
  induction bs with
  | nil => exact fun _ h => absurd rfl h
  | cons c bs ih =>
    intro a s hw _ h
    simp only [List.length_cons] at h
    rcases Memory.write8_cases s.mem a c with ⟨ha, he⟩ | ⟨ha, he⟩
    · have hne : bs ≠ [] := by intro h'; subst h'; simp at h; omega
      obtain ⟨m, hm, hg⟩ := ih (a := a + 1) (s := s.setMem (Memory.set s.mem a c)) (Memory.wf_set hw c ha) hne (by omega)
      refine ⟨m, ?_, fun b => ?_⟩
      · simp only [storeBytes, he, hm]
        rw [show max (a + 1) 4096 = max a 4096 by omega]
        rfl
      · rw [hg b]
        by_cases hb : a + 1 ≤ b ∧ b < 4096
        · rw [if_pos hb, if_pos (by omega)]
          obtain ⟨k, hk⟩ : ∃ k, b - a = k + 1 := ⟨b - a - 1, by omega⟩
          rw [hk, show b - (a + 1) = k by omega]
          rfl
        · rw [if_neg hb]
          by_cases he : b = a
          · subst he
            rw [if_pos (by omega), Nat.sub_self]
            exact Memory.get_set_same hw b c
          · rw [if_neg (by omega)]
            exact Memory.get_set_ne _ c he
    · refine ⟨s.mem, by simp only [storeBytes, he]; rw [Nat.max_eq_left ha]; rfl, fun b => ?_⟩
      rw [if_neg (by omega)]
      rfl

/-- Everything the loop of `save` does when every register fits (R145). -/
theorem saveRegs_ok {m : Nat} : ∀ {k : Nat} {s : State}, Memory.wf s.mem → s.i.toNat + m ≤ 4096 → k + m ≤ 16 →
    ∃ mem, saveRegs (regsFrom k m) s = .next ((s.setMem mem).setI (s.i + BitVec.ofNat 16 m)) ∧ Memory.wf mem ∧
      (∀ j, j < m → Memory.get mem (s.i.toNat + j) = s.reg (BitVec.ofNat 4 (k + j))) ∧
      ∀ b, b < s.i.toNat ∨ s.i.toNat + m ≤ b → Memory.get mem b = s.byteAt b := by
  induction m with
  | zero =>
    intro k s hw _ _
    refine ⟨s.mem, ?_, hw, fun j hj => absurd hj (Nat.not_lt_zero j), fun _ _ => rfl⟩
    show Host.Outcome.next s = .next { s with i := s.i + 0#16 }
    rw [BitVec.add_zero]
  | succ m ih =>
    intro k s hw hi hk
    have ha : effAddr s 0 < 4096 := by simp only [effAddr]; omega
    simp only [regsFrom_succ, saveRegs, Memory.write8_ok _ ha]
    have hi1 := toNat_succ_of_lt (a := s.i) (by omega)
    obtain ⟨mem, h1, h2, h3, h4⟩ := ih (k := k + 1)
      (s := (s.setMem (Memory.set s.mem (effAddr s 0) (s.reg (BitVec.ofNat 4 k)))).setI (s.i + 1))
      (Memory.wf_set hw _ ha) (by simp only [State.setI_i, hi1]; omega) (by omega)
    simp only [State.setI_i, hi1] at h3 h4
    refine ⟨mem, ?_, h2, fun j hj => ?_, fun b hb => ?_⟩
    · rw [h1]
      show Host.Outcome.next { s with mem := mem, i := s.i + 1 + BitVec.ofNat 16 m } =
        .next { s with mem := mem, i := s.i + BitVec.ofNat 16 (m + 1) }
      rw [step_then_steps]
    · cases j with
      | zero =>
        rw [h4 _ (by omega)]
        exact Memory.get_set_same hw _ _
      | succ j =>
        have := h3 j (by omega)
        rw [show s.i.toNat + 1 + j = s.i.toNat + (j + 1) by omega, show k + 1 + j = k + (j + 1) by omega] at this
        exact this
    · rw [h4 b (by omega)]
      exact Memory.get_set_ne _ _ (by simp only [effAddr]; omega)

/-- What the loop of `save` does when a register does not fit: those that do are stored and `I` has moved past them (R145, R203). -/
theorem saveRegs_fault {m : Nat} : ∀ {k : Nat} {s : State}, Memory.wf s.mem → m ≠ 0 → m ≤ 16 → 4096 < s.i.toNat + m →
    ∃ mem j, saveRegs (regsFrom k m) s =
      .next (((s.setMem mem).setI j).setStatus (.faulted (.outOfBounds (max s.i.toNat 4096) 1))) ∧
      j.toNat = max s.i.toNat 4096 ∧
      (∀ j, s.i.toNat + j < 4096 → Memory.get mem (s.i.toNat + j) = s.reg (BitVec.ofNat 4 (k + j))) ∧
      ∀ b, b < s.i.toNat ∨ 4096 ≤ b → Memory.get mem b = s.byteAt b := by
  induction m with
  | zero => exact fun _ h => absurd rfl h
  | succ m ih =>
    intro k s hw _ hm h
    rcases Memory.write8_cases s.mem (effAddr s 0) (s.reg (BitVec.ofNat 4 k)) with ⟨ha, he⟩ | ⟨ha, he⟩
    · have hw' := Memory.wf_set hw (s.reg (BitVec.ofNat 4 k)) ha
      have hsame := Memory.get_set_same hw (effAddr s 0) (s.reg (BitVec.ofNat 4 k))
      simp only [effAddr, Nat.add_zero] at ha
      have hi1 := toNat_succ_of_lt ha
      obtain ⟨mem, j, h1, h2, h3, h4⟩ := ih (k := k + 1)
        (s := (s.setMem (Memory.set s.mem (effAddr s 0) (s.reg (BitVec.ofNat 4 k)))).setI (s.i + 1))
        hw' (by omega) (by omega) (by simp only [State.setI_i, hi1]; omega)
      simp only [State.setI_i, hi1, show max (s.i.toNat + 1) 4096 = max s.i.toNat 4096 by omega] at h1 h2 h3 h4
      refine ⟨mem, j, by simp only [regsFrom_succ, saveRegs, he, h1]; rfl, h2, fun j hj => ?_, fun b hb => ?_⟩
      · cases j with
        | zero =>
          rw [h4 _ (by omega)]
          exact hsame
        | succ j =>
          have := h3 j (by omega)
          rw [show s.i.toNat + 1 + j = s.i.toNat + (j + 1) by omega, show k + 1 + j = k + (j + 1) by omega] at this
          exact this
      · rw [h4 b (by omega)]
        exact Memory.get_set_ne _ _ (by simp only [effAddr]; omega)
    · simp only [effAddr, Nat.add_zero] at ha
      refine ⟨s.mem, s.i, ?_, by omega, fun j hj => by omega, fun _ _ => rfl⟩
      simp only [regsFrom_succ, saveRegs, he]
      simp only [effAddr, Nat.add_zero, Nat.max_eq_left ha]
      rfl

/-- Everything the loop of `load` does when every byte is inside `MEM` (R146). -/
theorem loadRegs_ok {m : Nat} : ∀ {k : Nat} {s : State}, s.i.toNat + m ≤ 4096 → k + m ≤ 16 →
    ∃ t, loadRegs (regsFrom k m) s = .next t ∧ t = { s with v := t.v, i := t.i } ∧ t.i = s.i + BitVec.ofNat 16 m ∧
      ∀ y : Nibble, t.reg y =
        if k ≤ y.toNat ∧ y.toNat < k + m then s.byteAt (s.i.toNat + (y.toNat - k)) else s.reg y := by
  induction m with
  | zero =>
    intro k s _ _
    refine ⟨s, rfl, rfl, ?_, fun y => by rw [if_neg (by omega)]⟩
    show s.i = s.i + 0#16
    rw [BitVec.add_zero]
  | succ m ih =>
    intro k s hi hk
    have ha : effAddr s 0 < 4096 := by simp only [effAddr]; omega
    simp only [regsFrom_succ, loadRegs, Memory.read8_ok (m := s.mem) ha]
    have hi1 := toNat_succ_of_lt (a := s.i) (by omega)
    obtain ⟨t, h1, h2, h3, h4⟩ := ih (k := k + 1)
      (s := (s.setReg (BitVec.ofNat 4 k) (Memory.get s.mem (effAddr s 0))).setI (s.i + 1))
      (by simp only [State.setI_i, hi1]; omega) (by omega)
    refine ⟨t, h1, h2, ?_, fun y => ?_⟩
    · rw [h3]
      show s.i + 1 + BitVec.ofNat 16 m = s.i + BitVec.ofNat 16 (m + 1)
      rw [step_then_steps]
    · rw [h4 y]
      simp only [State.setI_i, hi1, State.setI_reg, State.reg_setReg]
      by_cases hy : k + 1 ≤ y.toNat ∧ y.toNat < k + 1 + m
      · rw [if_pos hy, if_pos (by omega), show s.i.toNat + 1 + (y.toNat - (k + 1)) = s.i.toNat + (y.toNat - k) by omega]
        rfl
      · rw [if_neg hy]
        have hkn := toNat_ofNat4 (k := k) (by omega)
        by_cases he : y = BitVec.ofNat 4 k
        · subst he
          rw [if_pos rfl, if_pos (by omega), hkn, Nat.sub_self]
          rfl
        · have : y.toNat ≠ k := fun h' => he (BitVec.eq_of_toNat_eq (by rw [hkn, h']))
          rw [if_neg he, if_neg (by omega)]

/-- What the loop of `load` does when a byte is outside `MEM`: the bytes inside are loaded and `I` has moved past them (R146, R203). -/
theorem loadRegs_fault {m : Nat} : ∀ {k : Nat} {s : State}, m ≠ 0 → k + m ≤ 16 → 4096 < s.i.toNat + m →
    ∃ t, loadRegs (regsFrom k m) s = .next t ∧
      t = { s with v := t.v, i := t.i, status := .faulted (.outOfBounds (max s.i.toNat 4096) 1) } ∧
      t.i.toNat = max s.i.toNat 4096 ∧
      ∀ y : Nibble, t.reg y =
        if k ≤ y.toNat ∧ y.toNat < k + m ∧ s.i.toNat + (y.toNat - k) < 4096 then s.byteAt (s.i.toNat + (y.toNat - k))
        else s.reg y := by
  induction m with
  | zero => exact fun h => absurd rfl h
  | succ m ih =>
    intro k s _ hm h
    rcases Memory.read8_cases s.mem (effAddr s 0) with ⟨ha, he⟩ | ⟨ha, he⟩
    · simp only [effAddr, Nat.add_zero] at ha
      have hi1 := toNat_succ_of_lt ha
      obtain ⟨t, h1, h2, h3, h4⟩ := ih (k := k + 1)
        (s := (s.setReg (BitVec.ofNat 4 k) (Memory.get s.mem (effAddr s 0))).setI (s.i + 1))
        (by omega) (by omega) (by simp only [State.setI_i, hi1]; omega)
      simp only [State.setI_i, hi1, show max (s.i.toNat + 1) 4096 = max s.i.toNat 4096 by omega] at h2 h3
      refine ⟨t, by simp only [regsFrom_succ, loadRegs, he, h1], h2, h3, fun y => ?_⟩
      rw [h4 y]
      simp only [State.setI_i, hi1, State.setI_reg, State.reg_setReg]
      have hkn := toNat_ofNat4 (k := k) (by omega)
      by_cases hy : k + 1 ≤ y.toNat
      · have he : y ≠ BitVec.ofNat 4 k := fun h' => by rw [h', hkn] at hy; omega
        rw [if_neg he, show s.i.toNat + 1 + (y.toNat - (k + 1)) = s.i.toNat + (y.toNat - k) by omega]
        by_cases hc : y.toNat < k + (m + 1) ∧ s.i.toNat + (y.toNat - k) < 4096
        · rw [if_pos (by omega), if_pos (by omega)]
          rfl
        · rw [if_neg (by omega), if_neg (by omega)]
      · rw [if_neg (by omega)]
        by_cases he : y = BitVec.ofNat 4 k
        · subst he
          rw [if_pos rfl, if_pos (by omega), hkn, Nat.sub_self]
          rfl
        · have : y.toNat ≠ k := fun h' => he (BitVec.eq_of_toNat_eq (by rw [hkn, h']))
          rw [if_neg he, if_neg (by omega)]
    · simp only [effAddr, Nat.add_zero] at ha
      refine ⟨s.setStatus (.faulted (.outOfBounds (max s.i.toNat 4096) 1)), ?_, rfl, by simp only [State.setStatus_i]; omega,
        fun y => by rw [if_neg (by omega)]; rfl⟩
      simp only [regsFrom_succ, loadRegs, he]
      simp only [effAddr, Nat.add_zero, Nat.max_eq_left ha]
      rfl

end Sys2Proof.Machine
end

