-- ==== Sys2Proof/Laws/PerInstr.lean ====
section
/-!
SUPPORT. The per-instruction family `TableRow`: the word of every well-formed instruction matches its own row of spec/opcode_table.json. The
rows (match, mask) below are the table's, not computed from `encode`.
-/

namespace Sys2Proof.Laws.TableRow

/-- The row's match and the mask of its fixed bits (R75, opcode_table.json). -/
def row : Instr → Nat × Nat
  | .sys _ => (0x0000, 0xF000)
  | .cls => (0x00E0, 0xFFFF)
  | .ret => (0x00EE, 0xFFFF)
  | .jump _ => (0x1000, 0xF000)
  | .call _ => (0x2000, 0xF000)
  | .sifeqi _ _ => (0x3000, 0xF000)
  | .sifnei _ _ => (0x4000, 0xF000)
  | .sifeq _ _ _ => (0x5000, 0xF000)
  | .movi _ _ => (0x6000, 0xF000)
  | .addi _ _ => (0x7000, 0xF000)
  | .mov _ _ => (0x8000, 0xF00F)
  | .or _ _ => (0x8001, 0xF00F)
  | .and _ _ => (0x8002, 0xF00F)
  | .xor _ _ => (0x8003, 0xF00F)
  | .add _ _ => (0x8004, 0xF00F)
  | .sub _ _ => (0x8005, 0xF00F)
  | .shr1 _ _ => (0x8006, 0xF00F)
  | .rsub _ _ => (0x8007, 0xF00F)
  | .shl1 _ _ => (0x800E, 0xF00F)
  | .sifne _ _ => (0x9000, 0xF00F)
  | .movidx _ => (0xA000, 0xF000)
  | .jumpv0 _ => (0xB000, 0xF000)
  | .rand _ _ => (0xC000, 0xF000)
  | .draw _ _ _ => (0xD000, 0xF000)
  | .sifkeq _ => (0xE09E, 0xF0FF)
  | .sifkne _ => (0xE0A1, 0xF0FF)
  | .timerr _ => (0xF007, 0xF0FF)
  | .keyr _ => (0xF00A, 0xF0FF)
  | .timerw _ => (0xF015, 0xF0FF)
  | .soundw _ => (0xF018, 0xF0FF)
  | .addidx _ => (0xF01E, 0xF0FF)
  | .font _ => (0xF029, 0xF0FF)
  | .bcd _ => (0xF033, 0xF0FF)
  | .save _ => (0xF055, 0xF0FF)
  | .load _ => (0xF065, 0xF0FF)

/-- A well-formed instruction's word has its row's fixed bits, and is none of the words the row leaves to others. -/
def Statement (i : Instr) : Prop :=
  i.wellFormed = true → (encode i) &&& BitVec.ofNat 16 (row i).2 = BitVec.ofNat 16 (row i).1 ∧
    ((row i).1 = 0 → encode i ≠ 0x00E0 ∧ encode i ≠ 0x00EE)

/-- A word in format A keeps its high nibble under the mask of its row. -/
theorem mask_formatA (op : Nibble) (nnn : Addr) (r : Word) (hr : op ++ (0#12) = r) :
    encodeA op nnn &&& 0xF000#16 = r := by
  rw [encodeA, show 0xF000#16 = 0xF#4 ++ 0#12 by decide, BitVec.and_append, BitVec.and_zero, ← hr]
  exact congrArg (· ++ 0#12) BitVec.and_allOnes

/-- A word in format XK keeps its high nibble under the mask of its row. -/
theorem mask_formatXK (op x : Nibble) (kk : Byte) (r : Word) (hr : op ++ 0#4 ++ 0#8 = r) :
    encodeXK op x kk &&& 0xF000#16 = r := by
  rw [encodeXK, show 0xF000#16 = (0xF#4 ++ 0#4) ++ 0#8 by decide, BitVec.and_append, BitVec.and_append,
    BitVec.and_zero, BitVec.and_zero, ← hr]
  exact congrArg (fun o => o ++ 0#4 ++ 0#8) BitVec.and_allOnes

/-- A word in format X keeps its high nibble and its low byte under the mask of its row. -/
theorem mask_formatX (op x : Nibble) (kk : Byte) (r : Word) (hr : op ++ 0#4 ++ kk = r) :
    encodeXK op x kk &&& 0xF0FF#16 = r := by
  rw [encodeXK, show 0xF0FF#16 = (0xF#4 ++ 0#4) ++ 0xFF#8 by decide, BitVec.and_append, BitVec.and_append,
    BitVec.and_zero, ← hr]
  exact congrArg₂ (fun o k => o ++ 0#4 ++ k) BitVec.and_allOnes BitVec.and_allOnes

/-- A word in format XYN keeps its high nibble under the mask of its row. -/
theorem mask_formatXYN (op x y n : Nibble) (r : Word) (hr : op ++ 0#4 ++ (0#4 ++ 0#4) = r) :
    encodeXYN op x y n &&& 0xF000#16 = r := by
  rw [encodeXYN, show 0xF000#16 = (0xF#4 ++ 0#4) ++ (0#4 ++ 0#4) by decide, BitVec.and_append, BitVec.and_append,
    BitVec.and_append, BitVec.and_zero, BitVec.and_zero, BitVec.and_zero, ← hr]
  exact congrArg (fun o => o ++ 0#4 ++ (0#4 ++ 0#4)) BitVec.and_allOnes

/-- A word in format XY keeps its high and its low nibble under the mask of its row. -/
theorem mask_formatXY (op x y n : Nibble) (r : Word) (hr : op ++ 0#4 ++ (0#4 ++ n) = r) :
    encodeXYN op x y n &&& 0xF00F#16 = r := by
  rw [encodeXYN, show 0xF00F#16 = (0xF#4 ++ 0#4) ++ (0#4 ++ 0xF#4) by decide, BitVec.and_append, BitVec.and_append,
    BitVec.and_append, BitVec.and_zero, BitVec.and_zero, ← hr]
  exact congrArg₂ (fun o k => o ++ 0#4 ++ (0#4 ++ k)) BitVec.and_allOnes BitVec.and_allOnes

/-- A row whose match is not 0 leaves no word to another row. -/
theorem of_match {i : Instr} (h : encode i &&& BitVec.ofNat 16 (row i).2 = BitVec.ofNat 16 (row i).1)
    (hne : (row i).1 ≠ 0) : Statement i := fun _ => ⟨h, fun h0 => absurd h0 hne⟩

/-- `sys` owns neither the word of `cls` nor that of `ret` (R78). -/
theorem sys (nnn : Addr) : Statement (.sys nnn) := fun h => by
  refine ⟨mask_formatA 0x0 nnn 0x0000#16 (by decide), fun _ => ?_⟩
  have hn : nnn ≠ 0x0E0#12 ∧ nnn ≠ 0x0EE#12 := by simpa [Instr.wellFormed, Instr.sysOperandOk] using h
  have hw : (encode (.sys nnn)).toNat = nnn.toNat := by
    rw [encode, encodeA_toNat]
    exact Nat.zero_add _
  refine ⟨fun he => hn.1 (BitVec.eq_of_toNat_eq ?_), fun he => hn.2 (BitVec.eq_of_toNat_eq ?_)⟩ <;>
    rw [← hw, he] <;> rfl

theorem cls : Statement (.cls) := of_match (by decide) (by decide)
theorem ret : Statement (.ret) := of_match (by decide) (by decide)
theorem jump (nnn : Addr) : Statement (.jump nnn) := of_match (mask_formatA 0x1 nnn 0x1000#16 (by decide)) (by simp [row])
theorem call (nnn : Addr) : Statement (.call nnn) := of_match (mask_formatA 0x2 nnn 0x2000#16 (by decide)) (by simp [row])
theorem sifeqi (x : Nibble) (kk : Byte) : Statement (.sifeqi x kk) := of_match (mask_formatXK 0x3 x kk 0x3000#16 (by decide)) (by simp [row])
theorem sifnei (x : Nibble) (kk : Byte) : Statement (.sifnei x kk) := of_match (mask_formatXK 0x4 x kk 0x4000#16 (by decide)) (by simp [row])
theorem sifeq (x y n : Nibble) : Statement (.sifeq x y n) := of_match (mask_formatXYN 0x5 x y n 0x5000#16 (by decide)) (by simp [row])
theorem movi (x : Nibble) (kk : Byte) : Statement (.movi x kk) := of_match (mask_formatXK 0x6 x kk 0x6000#16 (by decide)) (by simp [row])
theorem addi (x : Nibble) (kk : Byte) : Statement (.addi x kk) := of_match (mask_formatXK 0x7 x kk 0x7000#16 (by decide)) (by simp [row])
theorem mov (x y : Nibble) : Statement (.mov x y) := of_match (mask_formatXY 0x8 x y 0x0 0x8000#16 (by decide)) (by simp [row])
theorem or (x y : Nibble) : Statement (.or x y) := of_match (mask_formatXY 0x8 x y 0x1 0x8001#16 (by decide)) (by simp [row])
theorem and (x y : Nibble) : Statement (.and x y) := of_match (mask_formatXY 0x8 x y 0x2 0x8002#16 (by decide)) (by simp [row])
theorem xor (x y : Nibble) : Statement (.xor x y) := of_match (mask_formatXY 0x8 x y 0x3 0x8003#16 (by decide)) (by simp [row])
theorem add (x y : Nibble) : Statement (.add x y) := of_match (mask_formatXY 0x8 x y 0x4 0x8004#16 (by decide)) (by simp [row])
theorem sub (x y : Nibble) : Statement (.sub x y) := of_match (mask_formatXY 0x8 x y 0x5 0x8005#16 (by decide)) (by simp [row])
theorem shr1 (x y : Nibble) : Statement (.shr1 x y) := of_match (mask_formatXY 0x8 x y 0x6 0x8006#16 (by decide)) (by simp [row])
theorem rsub (x y : Nibble) : Statement (.rsub x y) := of_match (mask_formatXY 0x8 x y 0x7 0x8007#16 (by decide)) (by simp [row])
theorem shl1 (x y : Nibble) : Statement (.shl1 x y) := of_match (mask_formatXY 0x8 x y 0xe 0x800E#16 (by decide)) (by simp [row])
theorem sifne (x y : Nibble) : Statement (.sifne x y) := of_match (mask_formatXY 0x9 x y 0x0 0x9000#16 (by decide)) (by simp [row])
theorem movidx (nnn : Addr) : Statement (.movidx nnn) := of_match (mask_formatA 0xa nnn 0xA000#16 (by decide)) (by simp [row])
theorem jumpv0 (nnn : Addr) : Statement (.jumpv0 nnn) := of_match (mask_formatA 0xb nnn 0xB000#16 (by decide)) (by simp [row])
theorem rand (x : Nibble) (kk : Byte) : Statement (.rand x kk) := of_match (mask_formatXK 0xc x kk 0xC000#16 (by decide)) (by simp [row])
theorem draw (x y n : Nibble) : Statement (.draw x y n) := of_match (mask_formatXYN 0xd x y n 0xD000#16 (by decide)) (by simp [row])
theorem sifkeq (x : Nibble) : Statement (.sifkeq x) := of_match (mask_formatX 0xe x 0x9e 0xE09E#16 (by decide)) (by simp [row])
theorem sifkne (x : Nibble) : Statement (.sifkne x) := of_match (mask_formatX 0xe x 0xa1 0xE0A1#16 (by decide)) (by simp [row])
theorem timerr (x : Nibble) : Statement (.timerr x) := of_match (mask_formatX 0xf x 0x7 0xF007#16 (by decide)) (by simp [row])
theorem keyr (x : Nibble) : Statement (.keyr x) := of_match (mask_formatX 0xf x 0xa 0xF00A#16 (by decide)) (by simp [row])
theorem timerw (x : Nibble) : Statement (.timerw x) := of_match (mask_formatX 0xf x 0x15 0xF015#16 (by decide)) (by simp [row])
theorem soundw (x : Nibble) : Statement (.soundw x) := of_match (mask_formatX 0xf x 0x18 0xF018#16 (by decide)) (by simp [row])
theorem addidx (x : Nibble) : Statement (.addidx x) := of_match (mask_formatX 0xf x 0x1e 0xF01E#16 (by decide)) (by simp [row])
theorem font (x : Nibble) : Statement (.font x) := of_match (mask_formatX 0xf x 0x29 0xF029#16 (by decide)) (by simp [row])
theorem bcd (x : Nibble) : Statement (.bcd x) := of_match (mask_formatX 0xf x 0x33 0xF033#16 (by decide)) (by simp [row])
theorem save (x : Nibble) : Statement (.save x) := of_match (mask_formatX 0xf x 0x55 0xF055#16 (by decide)) (by simp [row])
theorem load (x : Nibble) : Statement (.load x) := of_match (mask_formatX 0xf x 0x65 0xF065#16 (by decide)) (by simp [row])

end Sys2Proof.Laws.TableRow
end

