-- ==== Sys2Proof/Tests/Slice0.lean ====
section
/-!
SUPPORT. The model's own tests. Every expected result is one of 95_test_vectors.md (its row is named) or is read off the rule that is named. A test
of an instruction runs one `step` on its word, placed where the machine fetches.
-/

namespace Sys2Proof.Tests

open Sys2Proof Sys2Proof.Machine

/-- One step on the word `w` from `s`: does it answer a next state, and one that satisfies `p`? -/
def after (w : Nat) (s : State) (p : State → Bool) : Bool :=
  match step (s.withFetchWord 16 w) with
  | .next t => p t
  | _ => false

/-- An answer that is a next state satisfying `p`. -/
def answers (a : Answer) (p : State → Bool) : Bool :=
  match a with
  | .next t => p t
  | _ => false

/-- The state after reset with some registers set. -/
def withRegs (rs : List (Nibble × Byte)) : State := rs.foldl (fun s r => s.setReg r.1 r.2) State.reset

/-- A state with some bytes of memory set. -/
def withBytes (s : State) (bs : List (Nat × Byte)) : State :=
  bs.foldl (fun s b => s.setMem (Memory.set s.mem b.1 b.2)) s

/-- The word is rejected under this name. -/
def rejects (w : Word) (r : DecodeReject) : Bool :=
  match decodeWord w with
  | .error r' => r' == r
  | .ok _ => false

/-! ## WellFormed: an ill-formed term for its one check -/

theorem test_wellFormed_refuses_cls_word : Instr.wellFormed (.sys 0x0E0) = false := by decide
theorem test_wellFormed_refuses_ret_word : Instr.wellFormed (.sys 0x0EE) = false := by decide
theorem test_wellFormed_admits_sys : Instr.wellFormed (.sys 0x1EE) = true := by decide

/-! ## Decode: every constructor's word, written out from the fields of 30_encoding.md R72 and the patterns of R75 -/

theorem test_decode_flow :
    decodeWord 0b0000000100100011 = .ok (.sys 0x123) ∧
    decodeWord 0b0000000011100000 = .ok (.cls) ∧
    decodeWord 0b0000000011101110 = .ok (.ret) ∧
    decodeWord 0b0001101010111100 = .ok (.jump 0xABC) ∧
    decodeWord 0b0010001000010000 = .ok (.call 0x210) ∧
    decodeWord 0b1011001011111111 = .ok (.jumpv0 0x2FF) := by decide

theorem test_decode_skips :
    decodeWord 0b0011001100010010 = .ok (.sifeqi 3 0x12) ∧
    decodeWord 0b0100001100010010 = .ok (.sifnei 3 0x12) ∧
    decodeWord 0b0101000100100000 = .ok (.sifeq 1 2 0) ∧
    decodeWord 0b0101000100100001 = .ok (.sifeq 1 2 1) ∧
    decodeWord 0b1001000100100000 = .ok (.sifne 1 2) := by decide

theorem test_decode_moves :
    decodeWord 0b0110101000111111 = .ok (.movi 0xA 0x3F) ∧
    decodeWord 0b0111000111111111 = .ok (.addi 1 0xFF) ∧
    decodeWord 0b1000000100100000 = .ok (.mov 1 2) ∧
    decodeWord 0b1100000100001111 = .ok (.rand 1 0x0F) := by decide

theorem test_decode_logic :
    decodeWord 0b1000000100100001 = .ok (.or 1 2) ∧
    decodeWord 0b1000000100100010 = .ok (.and 1 2) ∧
    decodeWord 0b1000000100100011 = .ok (.xor 1 2) := by decide

theorem test_decode_arithmetic :
    decodeWord 0b1000101010110100 = .ok (.add 0xA 0xB) ∧
    decodeWord 0b1000000100100101 = .ok (.sub 1 2) ∧
    decodeWord 0b1000000100100110 = .ok (.shr1 1 2) ∧
    decodeWord 0b1000000100100111 = .ok (.rsub 1 2) ∧
    decodeWord 0b1000000100101110 = .ok (.shl1 1 2) := by decide

theorem test_decode_index :
    decodeWord 0b1010001100000001 = .ok (.movidx 0x301) ∧
    decodeWord 0b1111001000011110 = .ok (.addidx 2) ∧
    decodeWord 0b1111001000101001 = .ok (.font 2) ∧
    decodeWord 0b1111001000110011 = .ok (.bcd 2) ∧
    decodeWord 0b1111001001010101 = .ok (.save 2) ∧
    decodeWord 0b1111111101100101 = .ok (.load 0xF) := by decide

theorem test_decode_display_keypad_timers :
    decodeWord 0b1101000100100101 = .ok (.draw 1 2 5) ∧
    decodeWord 0b1110001110011110 = .ok (.sifkeq 3) ∧
    decodeWord 0b1110001110100001 = .ok (.sifkne 3) ∧
    decodeWord 0b1111101000001010 = .ok (.keyr 0xA) ∧
    decodeWord 0b1111010000000111 = .ok (.timerr 4) ∧
    decodeWord 0b1111010000010101 = .ok (.timerw 4) ∧
    decodeWord 0b1111010100011000 = .ok (.soundw 5) := by decide

/-- E7, E8, E10, E11: the words of R76 are rejected under the name of their family. -/
theorem test_decode_rejects :
    rejects 0x9121 .unknownSkip = true ∧ rejects 0x8128 .unknownArithmetic = true ∧
    rejects 0x812D .unknownArithmetic = true ∧ rejects 0x812F .unknownArithmetic = true ∧
    rejects 0xE19F .unknownKey = true ∧ rejects 0xF100 .unknownMisc = true := by decide

/-- The decoder's own laying out of a table word, high byte first (R70), and the encoder's bytes. -/
theorem test_decode_bytes :
    decodeTableWord 16 0x8AB4 = some (.add 0xA 0xB) ∧ decodeTableWord 16 0x9121 = none ∧
    encodeBytes (.jump 0xABC) = [0x1A, 0xBC] := by decide

/-- S1: the bitfield instances. -/
theorem test_bitfield_S1 :
    readField 0xABCD#16 4 8 = 0xBC#16 ∧ writeField 0xABCD#16 4 8 0x12#16 = 0xA12D#16 ∧
    writeField 0xABCD#16 4 8 0x312#16 = 0xA12D#16 ∧ writeField 0xFFFF#16 15 1 0#16 = 0x7FFF#16 ∧
    fieldFits 8 8 1 = false := by decide

/-- S3: the 16-bit accesses, the odd offset and the first offset out of bounds. -/
theorem test_memory_S3 :
    (match Memory.write16 [] 0x301 0x1234 with
      | .ok m => Memory.get m 0x301 == 0x12 && Memory.get m 0x302 == 0x34
      | .error _ => false) = true ∧
    (match Memory.write16 [] 4095 0x1234 with
      | .ok _ => false
      | .error f => f == .outOfBounds 4095 2) = true := by decide

/-- R54: the bytes in ascending order; out of range above 4096, also for no bytes; an empty slice at 4096 is inside. -/
theorem test_slices_R54 :
    (match Memory.writeSlice [] 0x300 [0x12, 0x34] with
      | .ok m => Memory.get m 0x300 == 0x12 && Memory.get m 0x301 == 0x34
      | .error _ => false) = true ∧
    (match Memory.readSlice [] 5 3 with
      | .ok bs => bs == [0x20, 0x60, 0x20]
      | .error _ => false) = true ∧
    (match Memory.readSlice [] 5000 0, Memory.writeSlice [] 5000 [], Memory.readSlice [] 4096 0 with
      | .error _, .error _, .ok bs => bs == []
      | _, _, _ => false) = true := by decide

/-! ## One step per instruction -/

/-- F1. -/
theorem test_sys_F1 :
    after 0x0123 State.reset
      (fun t => t.status == .faulted (.fatalDecode 0x0123 0x200) && t.pc == 0x202) = true := by decide

/-- E7. -/
theorem test_unknown_E7 :
    after 0x9121 State.reset
      (fun t => t.status == .faulted (.fatalDecode 0x9121 0x200) && t.pc == 0x202) = true := by decide

/-- G1. -/
theorem test_cls_G1 :
    after 0x00E0 ((withRegs [(15, 1)]).setFb (Framebuffer.setPixel State.reset.fb 3 3 true))
      (fun t => !t.pixelAt 3 3 && t.reg 15 == 1 && t.qHost == []) = true := by decide

/-- S5. -/
theorem test_ret_S5 :
    after 0x00EE ({ State.reset with sp := 1, stack := State.reset.stack.set 0 0x20A })
      (fun t => t.pc == 0x20A && t.sp == 0) = true := by decide

/-- F2. -/
theorem test_ret_F2 :
    after 0x00EE State.reset
      (fun t => t.status == .faulted (.stackUnderflow 0x200) && t.sp == 0) = true := by decide

/-- S5. -/
theorem test_jump_S5 :
    after 0x1ABC State.reset
      (fun t => t.pc == 0xABC) = true := by decide

/-- F3. -/
theorem test_call_F3 :
    after 0x2210 ({ State.reset with pc := 0x208 })
      (fun t => t.pc == 0x210 && t.sp == 1 && t.stack.get 0 == 0x20A) = true := by decide

/-- F4. -/
theorem test_call_F4 :
    after 0x2300 ({ State.reset with sp := 16 })
      (fun t => t.status == .faulted (.stackOverflow 0x200) && t.sp == 16 && t.stack == State.reset.stack) = true := by decide

/-- F10. -/
theorem test_sifeqi_F10 :
    after 0x3310 (withRegs [(3, 0x10)])
      (fun t => t.pc == 0x204) = true := by decide

/-- F11. -/
theorem test_sifeqi_F11 :
    after 0x3310 (withRegs [(3, 0x11)])
      (fun t => t.pc == 0x202) = true := by decide

/-- F12. -/
theorem test_sifnei_F12 :
    after 0x4310 (withRegs [(3, 0x11)])
      (fun t => t.pc == 0x204) = true := by decide

/-- F13. -/
theorem test_sifnei_F13 :
    after 0x4310 (withRegs [(3, 0x10)])
      (fun t => t.pc == 0x202) = true := by decide

/-- F16. -/
theorem test_sifeq_F16 :
    after 0x5120 (withRegs [(1, 3), (2, 4)])
      (fun t => t.pc == 0x202) = true := by decide

/-- E5 (R77): the low nibble plays no part. -/
theorem test_sifeq_low_nibble_E5 :
    after 0x5121 (withRegs [(1, 3), (2, 3)])
      (fun t => t.pc == 0x204) = true := by decide

/-- S5. -/
theorem test_movi_S5 :
    after 0x6A3F State.reset
      (fun t => t.reg 0xA == 0x3F && t.pc == 0x202) = true := by decide

/-- A2. -/
theorem test_addi_A2 :
    after 0x7101 (withRegs [(1, 0xFF)])
      (fun t => t.reg 1 == 0 && t.reg 15 == 0) = true := by decide

/-- A3. -/
theorem test_addi_A3 :
    after 0x7F02 (withRegs [(15, 0xFF)])
      (fun t => t.reg 15 == 1) = true := by decide

/-- A4. -/
theorem test_mov_A4 :
    after 0x8120 (withRegs [(2, 0x77)])
      (fun t => t.reg 1 == 0x77) = true := by decide

/-- A5. -/
theorem test_or_A5 :
    after 0x8121 (withRegs [(1, 0xF0), (2, 0x0F), (15, 1)])
      (fun t => t.reg 1 == 0xFF && t.reg 15 == 1) = true := by decide

/-- A6. -/
theorem test_and_A6 :
    after 0x8122 (withRegs [(1, 0xF3), (2, 0x3F)])
      (fun t => t.reg 1 == 0x33) = true := by decide

/-- A7. -/
theorem test_xor_A7 :
    after 0x8123 (withRegs [(1, 0xFF), (2, 0x0F)])
      (fun t => t.reg 1 == 0xF0) = true := by decide

/-- A10. -/
theorem test_add_A10 :
    after 0x8124 (withRegs [(1, 0xC8), (2, 0x64)])
      (fun t => t.reg 1 == 0x2C && t.reg 15 == 1) = true := by decide

/-- A25: the result wins in VF. -/
theorem test_add_A25 :
    after 0x8F14 (withRegs [(15, 0x10), (1, 0x20)])
      (fun t => t.reg 15 == 0x30) = true := by decide

/-- A12: equal operands do not borrow. -/
theorem test_sub_A12 :
    after 0x8125 (withRegs [(1, 0x10), (2, 0x10)])
      (fun t => t.reg 1 == 0 && t.reg 15 == 1) = true := by decide

/-- A13. -/
theorem test_sub_A13 :
    after 0x8125 (withRegs [(1, 1), (2, 2)])
      (fun t => t.reg 1 == 0xFF && t.reg 15 == 0) = true := by decide

/-- A20: y plays no part. -/
theorem test_shr1_A20 :
    after 0x8126 (withRegs [(1, 0xFF), (2, 0)])
      (fun t => t.reg 1 == 0x7F && t.reg 15 == 1 && t.reg 2 == 0) = true := by decide

/-- A27. -/
theorem test_shr1_A27 :
    after 0x8F06 (withRegs [(15, 6)])
      (fun t => t.reg 15 == 3) = true := by decide

/-- A15. -/
theorem test_rsub_A15 :
    after 0x8127 (withRegs [(1, 1), (2, 2)])
      (fun t => t.reg 1 == 1 && t.reg 15 == 1) = true := by decide

/-- A16. -/
theorem test_rsub_A16 :
    after 0x8127 (withRegs [(1, 2), (2, 1)])
      (fun t => t.reg 1 == 0xFF && t.reg 15 == 0) = true := by decide

/-- A21: the flag is 1, not 0x80. -/
theorem test_shl1_A21 :
    after 0x810E (withRegs [(1, 0x80)])
      (fun t => t.reg 1 == 0 && t.reg 15 == 1) = true := by decide

/-- A28. -/
theorem test_shl1_A28 :
    after 0x8F0E (withRegs [(15, 0x81)])
      (fun t => t.reg 15 == 2) = true := by decide

/-- F17. -/
theorem test_sifne_F17 :
    after 0x9120 (withRegs [(1, 3), (2, 4)])
      (fun t => t.pc == 0x204) = true := by decide

/-- F15. -/
theorem test_sifne_F15 :
    after 0x9110 State.reset
      (fun t => t.pc == 0x202) = true := by decide

/-- M1. -/
theorem test_movidx_M1 :
    after 0xAFFF State.reset
      (fun t => t.i == 0xFFF) = true := by decide

/-- F9: no 12-bit mask. -/
theorem test_jumpv0_F9 :
    after 0xBFFF (withRegs [(0, 0xFF)])
      (fun t => t.pc == 0x10FE) = true := by decide

/-- G4. -/
theorem test_draw_G4 :
    after 0xD011 (withBytes { State.reset with i := 0x300, fb := Framebuffer.setPixel (Framebuffer.setPixel State.reset.fb 0 3 true) 0 4 true } [(0x300, 0xF0)])
      (fun t => t.pixelAt 0 0 && t.pixelAt 0 1 && t.pixelAt 0 2 && !t.pixelAt 0 3 && t.pixelAt 0 4 && !t.pixelAt 0 5 && t.reg 15 == 1 && t.qHost == [.videoChanged]) = true := by decide

/-- G5: wrap at the right edge and the bottom. -/
theorem test_draw_G5 :
    after 0xD012 (withBytes ((withRegs [(0, 60), (1, 31)]).setI 0x20A) [(0x20A, 0xFF), (0x20B, 0x81)])
      (fun t => t.pixelAt 31 60 && t.pixelAt 31 3 && !t.pixelAt 31 4 && t.pixelAt 0 60 && !t.pixelAt 0 61 && t.pixelAt 0 3 && t.reg 15 == 0) = true := by decide

/-- T1. -/
theorem test_sifkeq_T1 :
    after 0xE39E ({ withRegs [(3, 7)] with pc := 0x240, keypad := 0x0080 })
      (fun t => t.pc == 0x244) = true := by decide

/-- T4. -/
theorem test_sifkeq_T4 :
    after 0xE39E (withRegs [(3, 0x10)])
      (fun t => t.status == .faulted (.invariantViolation 0x200)) = true := by decide

/-- T3. -/
theorem test_sifkne_T3 :
    after 0xE3A1 ({ withRegs [(3, 6)] with pc := 0x240, keypad := 0x0080 })
      (fun t => t.pc == 0x244) = true := by decide

/-- T5. -/
theorem test_sifkne_T5 :
    after 0xE3A1 (withRegs [(3, 0xFF)])
      (fun t => t.status == .faulted (.invariantViolation 0x200)) = true := by decide

/-- T14. -/
theorem test_timerr_T14 :
    after 0xF407 ({ State.reset with dt := 0x2A })
      (fun t => t.reg 4 == 0x2A) = true := by decide

/-- T9: a held key does not satisfy it. -/
theorem test_keyr_T9 :
    after 0xF20A ({ State.reset with keypad := 0x0008 })
      (fun t => t.halt && t.pc == 0x200 && t.reg 2 == 0) = true := by decide

/-- T10. -/
theorem test_keyr_T10 :
    after 0xF20A ({ withRegs [(2, 9)] with wake := some 0 })
      (fun t => t.reg 2 == 0 && t.wake == none && t.pc == 0x202) = true := by decide

/-- T13. -/
theorem test_timerw_T13 :
    after 0xF315 (withRegs [(3, 7)])
      (fun t => t.dt == 7) = true := by decide

/-- T17. -/
theorem test_soundw_T17 :
    after 0xF518 (withRegs [(5, 2)])
      (fun t => t.st == 2 && t.stFlag && t.qHost == []) = true := by decide

/-- T23. -/
theorem test_soundw_T23 :
    after 0xF518 ({ withRegs [(5, 9)] with st := 4 })
      (fun t => t.st == 9 && !t.stFlag) = true := by decide

/-- M3. -/
theorem test_addidx_M3 :
    after 0xF21E ({ withRegs [(2, 2)] with i := 0xFFFF })
      (fun t => t.i == 1) = true := by decide

/-- M5: no mask. -/
theorem test_font_M5 :
    after 0xF029 (withRegs [(0, 0xFF)])
      (fun t => t.i == 0x4FB) = true := by decide

/-- M9. -/
theorem test_bcd_M9 :
    after 0xF033 ({ withRegs [(0, 99)] with i := 0xFFD })
      (fun t => t.byteAt 0xFFD == 0 && t.byteAt 0xFFE == 9 && t.byteAt 0xFFF == 9 && t.i == 0xFFD) = true := by decide

/-- M10. -/
theorem test_bcd_M10 :
    after 0xF033 ({ withRegs [(0, 255)] with i := 0xFFE })
      (fun t => t.byteAt 0xFFE == 2 && t.byteAt 0xFFF == 5 && t.status == .faulted (.outOfBounds 0x1000 1)) = true := by decide

/-- M13. -/
theorem test_save_M13 :
    after 0xF155 ({ withRegs [(0, 0xAA), (1, 0xBB)] with i := 0xFFF })
      (fun t => t.byteAt 0xFFF == 0xAA && t.i == 0x1000 && t.status == .faulted (.outOfBounds 0x1000 1)) = true := by decide

/-- M11. -/
theorem test_save_M11 :
    after 0xF055 ({ withRegs [(0, 0x11)] with i := 0x300 })
      (fun t => t.byteAt 0x300 == 0x11 && t.i == 0x301) = true := by decide

/-- M14. -/
theorem test_load_M14 :
    after 0xF265 (withBytes { State.reset with i := 0x300 } [(0x300, 2), (0x301, 5), (0x302, 4)])
      (fun t => t.reg 0 == 2 && t.reg 1 == 5 && t.reg 2 == 4 && t.i == 0x303) = true := by decide

/-- M16. -/
theorem test_load_M16 :
    after 0xF065 ({ State.reset with i := 0x1000 })
      (fun t => t.status == .faulted (.outOfBounds 0x1000 1) && t.i == 0x1000) = true := by decide

/-- A31: whatever byte is drawn, a zero mask gives zero. -/
theorem test_rand_A31 :
    ∃ t, step ((withRegs [(1, 9)]).withFetchWord 16 0xC100) = .next t ∧ t.reg 1 = 0 ∧ t.draws = 1 := by
  refine ⟨_, rfl, ?_, rfl⟩
  show Config.draw8 0 &&& 0 = 0
  simp

/-! ## The controllers, the clock and the host -/

/-- T8: the previous bit is not consulted. -/
theorem test_input_T8 :
    let t := inputEvent 4 true { State.reset with keypad := 0x0010, halt := true }
    (t.keypad == 0x0010 && !t.halt && t.wake == some 4) = true := by decide

/-- T7: a release never wakes. -/
theorem test_input_T7 :
    let t := inputEvent 0 false { State.reset with keypad := 0x8001, halt := true }
    (t.keypad == 0x8000 && t.halt && t.wake == none) = true := by decide

/-- T15, T16. -/
theorem test_timer_tick : (timerTick { State.reset with dt := 1 }).dt = 0 ∧ (timerTick State.reset).dt = 0 := by decide

/-- T18, T19, T20. -/
theorem test_sound_tick :
    (soundTick { State.reset with st := 2, stFlag := true }).qHost = [.audio true] ∧
    (soundTick { State.reset with st := 1 }).qHost = [.audio false] ∧
    (soundTick State.reset).qHost = [] := by decide

/-- K1: the first frame of 16667 microseconds gives 8 CPU ticks, the third 9. -/
theorem test_ticks_K1 :
    (ticksFor State.reset .cpu 16667).1 = 8 ∧
    (ticksFor { State.reset with accCpu := (ticksFor { State.reset with accCpu := (ticksFor State.reset .cpu 16667).2 } .cpu
      16667).2 } .cpu 16667).1 = 9 := by decide +kernel

/-- K4, K5. -/
theorem test_ticks_K4 :
    (ticksFor State.reset .cpu 1000000).1 = 500 ∧ (ticksFor State.reset .timer 1000000).1 = 60 ∧
    (ticksFor State.reset .sound 0).1 = 0 := by decide +kernel

/-- R174: ties to even: 1/2 gives 0, 3/2 gives 2, 2^53 + 1 gives 2^53 and 2^53 + 3 gives 2^53 + 4. -/
theorem test_round_ties :
    F64.round 1 2 = ⟨0⟩ ∧ F64.round 3 2 = ⟨2⟩ ∧ F64.round (2 ^ 53 + 1) 1 = ⟨2 ^ 53⟩ ∧
    F64.round (2 ^ 53 + 3) 1 = ⟨2 ^ 53 + 4⟩ := by decide

/-- R180: the step of a frame in which only the Timer has an iteration left performs it. -/
theorem test_timer_step :
    answers (step { State.reset with phase := .dispatch, leftTimer := 2, dt := 9 })
      (fun t => t.dt == 8 && t.leftTimer == 1) = true := by decide

/-- R212: after a fault in sequential dispatch the next step ends the frame; no tick is performed. -/
theorem test_fault_ends_sequential_frame :
    pickController { State.reset with
      phase := .dispatch, leftCpu := 1, leftSound := 1, qTimer := [1], status := .faulted (.stackUnderflow 0x200) } = none := by
  decide

/-- R193: the step of an idle block performs the operation at the head of `pending`. -/
theorem test_host_step :
    answers (step { State.reset with pending := [.setKey 3 true, .run 0] })
      (fun t => t.response == some .ok && t.pending == [.run 0]) = true := by
  have h : State.queueFull { State.reset with pending := [.run 0] } .cpu = false :=
    decide_eq_false (Nat.not_le_of_lt (Nat.succ_pos _))
  show answers (hostSetKey 3 true { State.reset with pending := [.run 0] }) _ = true
  unfold hostSetKey
  rw [h]
  rfl

/-- R173: the bits of 2.0 and of 0.0 are a bias; those of -1.0, of infinity and of NaN are not. -/
theorem test_bias_bits :
    F64.ofBits 0x4000000000000000 = some ⟨2 * F64.oneUnits⟩ ∧ F64.ofBits 0 = some F64.zero ∧
    F64.ofBits 0xBFF0000000000000 = none ∧ F64.ofBits 0x7FF0000000000000 = none ∧
    F64.ofBits 0x7FF8000000000000 = none := by decide +kernel

/-- K9. -/
theorem test_run_K9 :
    answers (hostRun 5 { State.reset with status := .uninitialized }) (fun t => t.response == some .notInitialized) = true := by
  decide

/-- T12. -/
theorem test_set_key_T12 :
    answers (hostSetKey 16 true State.reset)
      (fun t => t.response == some (.invalidKey 16) && t.qCpu == [] && t.keypad == 0) = true := by decide

/-- Z1. -/
theorem test_reset_Z1 :
    answers (hostReset (some [0x12, 0x00]) (Vector.ofFn fun a => defaultFontByte a.val) { State.reset with pc := 7, dt := 3 })
      (fun t => t.byteAt 0x200 == 0x12 && t.byteAt 0x201 == 0 && (List.range 5).map t.byteAt == [0xF0, 0x90, 0x90, 0x90, 0xF0] &&
        t.byteAt 0x50 == 0 && t.pc == 0x200 && t.dt == 0 && t.status == .running) = true := by decide

/-- R231: the host's `reset` with an empty image and the default font leaves what `State.reset` is. -/
theorem test_reset_is_reset :
    hostReset (some []) (Vector.ofFn fun a => defaultFontByte a.val) State.reset = .next State.reset := by rfl

/-- R183: with every queue empty and no tick left, the frame of a running block ends and `run` answers Ok. -/
theorem test_frame_end :
    answers (step { State.reset with phase := .dispatch, response := none })
      (fun t => t.phase == .idle && t.response == some .ok) = true := by decide

/-! ## Witnesses: for each statement with hypotheses, a state and operands that meet them, clause by clause -/

theorem witness_DecodeOfEncode : Instr.wellFormed (.sys 0x0E1) = true ∧ Instr.wellFormed (.draw 15 15 15) = true := by decide

theorem witness_EncodeOfDecode : decodeWord 0x812E = .ok (.shl1 1 2) ∧ decodeWord 0x00E1 = .ok (.sys 0x0E1) := by decide

theorem witness_BitfieldBits : 15 + 1 ≤ 16 ∧ 0 + 16 ≤ 16 ∧ 8 + 0 ≤ 8 := by decide

theorem witness_BitfieldRoundTrip : 4 + 8 ≤ 16 ∧ 7 + 1 ≤ 8 := by decide

theorem witness_WordRoundTrip : Memory.wf [(0x300, 7)] ∧ 4094 + 1 ≤ 4095 := by decide

theorem witness_CycleFetchDecodeExecute :
    4095 ≤ (State.reset.setPc 0xFFF).pc.toNat ∧ (State.reset.setPc 0xFFE).pc.toNat ≤ 4094 ∧
    rejects ((withBytes State.reset [(0x200, 0x91), (0x201, 0x21)]).byteAt 0x200 ++
      (withBytes State.reset [(0x200, 0x91), (0x201, 0x21)]).byteAt 0x201) .unknownSkip = true ∧
    decodeWord ((withBytes State.reset [(0xFFE, 0x12)]).byteAt 0xFFE ++ (withBytes State.reset [(0xFFE, 0x12)]).byteAt 0xFFF) =
      .ok (.jump 0x200) := by decide

/-- A frame in progress with one iteration left, and the word of `movi V5, 0x12` at `PC`. -/
def fetchState : State := State.reset.withFetchWord 16 0x6512

theorem witness_StepRunsDecoded :
    fetchState.phase = .dispatch ∧ pickController fetchState = some (.cpu, fetchState) ∧ fetchState.leftCpu = 0 + 1 ∧
    fetchState.pc.toNat ≤ 4094 ∧
    decodeWord (fetchState.byteAt fetchState.pc.toNat ++ fetchState.byteAt (fetchState.pc.toNat + 1)) = .ok (.movi 5 0x12) := by
  decide

theorem witness_SequentialOrder :
    State.reset.dispatchMode = .sequential ∧ State.reset.status = .running ∧
    { State.reset with leftCpu := 1 }.leftCpu ≠ 0 ∧ { State.reset with qCpu := [.tick 0] }.qCpu ≠ [] ∧
    { State.reset with qSound := [0] }.qSound ≠ [] ∧ { State.reset with leftTimer := 1 }.leftTimer ≠ 0 ∧
    State.reset.leftCpu = 0 ∧ State.reset.qCpu = [] ∧ State.reset.leftSound = 0 ∧ State.reset.qSound = [] ∧
    State.reset.leftTimer = 0 ∧ State.reset.qTimer = [] := by decide

/-- The other two clauses of SequentialOrder: concurrent dispatch with work for one controller and for none, running and faulted, and a fault in
sequential dispatch. -/
theorem witness_SequentialOrder_others :
    { State.reset with dispatchMode := .concurrent }.dispatchMode = .concurrent ∧
    pickController { State.reset with dispatchMode := .concurrent } = none ∧
    (pickController { State.reset with dispatchMode := .concurrent, leftCpu := 1 }).map (·.1) = some .cpu ∧
    (pickController { State.reset with
      dispatchMode := .concurrent, leftCpu := 1, leftTimer := 1, status := .faulted (.stackUnderflow 0x200) }).map (·.1) =
      some .timer ∧
    State.reset.dispatchMode = .sequential ∧
    (State.reset.setStatus (.faulted (.stackUnderflow 0x200))).status = .faulted (.stackUnderflow 0x200) := by
  have h : ∀ n : Nat, n % 1 = 0 := Nat.mod_one
  refine ⟨rfl, by decide, ?_, ?_, rfl, rfl⟩
  · show some ([Ctrl.cpu].getD (Config.schedule 0 % 1) .cpu) = some .cpu
    rw [h]
    rfl
  · show some ([Ctrl.timer].getD (Config.schedule 0 % 1) .timer) = some .timer
    rw [h]
    rfl

theorem witness_CallPushes :
    { State.reset with sp := 0 }.sp.val < 16 ∧ { State.reset with sp := 15 }.sp.val < 16 ∧
    { State.reset with sp := 16 }.sp.val = 16 := by decide

theorem witness_RetPops :
    { State.reset with sp := 16 }.sp.val = (15 : Fin 16).val + 1 ∧ { State.reset with sp := 1 }.sp.val = (0 : Fin 16).val + 1 ∧
    State.reset.sp.val = 0 := by decide

/-- A call depth of 14, the state after a `call` from there, and the state after a nested `call` and `ret`, which has an entry at `SP` that the
outer `call` did not leave. -/
def depthState : State := { State.reset with sp := 14 }
def calledState : State := { depthState with pc := 0x300, sp := 15, stack := depthState.stack.set 14 0x200 }
def nestedState : State := { calledState with stack := calledState.stack.set 15 0x302 }

theorem witness_ReturnAfterCall :
    depthState.sp.val < 16 ∧ exec (.call 0x300) depthState = .next calledState ∧ nestedState.sp = calledState.sp ∧
    ∀ k : Fin 16, k.val < nestedState.sp.val → nestedState.stack.get k = calledState.stack.get k :=
  ⟨by decide, rfl, rfl, by decide⟩

theorem witness_AddWithCarry : (14 : Nibble) ≠ 15 ∧ (0 : Nibble) ≠ 14 ∧ (0 : Nibble) ≠ 15 := by decide

theorem witness_SubtractWithNoBorrow : (1 : Nibble) ≠ 15 ∧ (2 : Nibble) ≠ 1 ∧ (2 : Nibble) ≠ 15 := by decide

theorem witness_ShiftByOne : (3 : Nibble) ≠ 15 ∧ (4 : Nibble) ≠ 3 ∧ (4 : Nibble) ≠ 15 := by decide

theorem witness_BcdStoresDigits :
    Memory.wf State.reset.mem ∧ (State.reset.setI 4093).i.toNat + 2 ≤ 4095 ∧ 4096 ≤ (State.reset.setI 4094).i.toNat + 2 ∧
    (State.reset.setI 4094).i.toNat + 1 ≤ 4095 ∧ (State.reset.setI 4095).i.toNat ≤ 4095 := by decide

theorem witness_SaveStoresRegisters :
    Memory.wf State.reset.mem ∧ (State.reset.setI 4080).i.toNat + (15 : Nibble).toNat ≤ 4095 ∧
    (State.reset.setI 4095).i.toNat + (0 : Nibble).toNat ≤ 4095 ∧
    4096 ≤ (State.reset.setI 4095).i.toNat + (1 : Nibble).toNat := by decide

theorem witness_LoadFillsRegisters :
    (State.reset.setI 4080).i.toNat + (15 : Nibble).toNat ≤ 4095 ∧
    (State.reset.setI 4095).i.toNat + (0 : Nibble).toNat ≤ 4095 ∧
    4096 ≤ (State.reset.setI 4096).i.toNat + (0 : Nibble).toNat := by decide

theorem witness_LoadAfterSave :
    Memory.wf State.reset.mem ∧ (State.reset.setI 4095).i.toNat + (0 : Nibble).toNat ≤ 4095 ∧
    ∃ t, exec (.save 0) ((withRegs [(0, 7)]).setI 4095) = .next t ∧ ({ State.reset with mem := t.mem, i := 4095 }).mem = t.mem :=
  ⟨by decide, by decide, _, rfl, rfl⟩

theorem witness_DrawXorsSprite :
    (0 : Nibble) = 0 ∧ (State.reset.setI 4081).i.toNat + (15 : Nibble).toNat ≤ 4096 := by decide

theorem witness_DrawTwiceErases :
    (0 : Nibble) ≠ 15 ∧ (14 : Nibble) ≠ 15 ∧ State.reset.i.toNat + (1 : Nibble).toNat ≤ 4096 ∧
    (∀ py px, State.reset.pixelAt py px = false) ∧
    ∃ t u, exec (.draw 0 14 1) State.reset = .next t ∧ exec (.draw 0 14 1) t = .next u := by
  refine ⟨by decide, by decide, by decide, fun py px => ?_, ?_⟩
  · show ((Vector.replicate 32 (Vector.replicate 64 false))[py.val])[px.val] = false
    simp
  · exact ⟨_, _, rfl, rfl⟩

theorem witness_DrawFault :
    (1 : Nibble) ≠ 0 ∧ 4096 < (State.reset.setI 4096).i.toNat + (1 : Nibble).toNat ∧
    4096 < (State.reset.setI 4095).i.toNat + (2 : Nibble).toNat := by decide

theorem witness_KeySkips :
    ((withRegs [(3, 15)]).reg 3).toNat ≤ 15 ∧ 15 < ((withRegs [(3, 16)]).reg 3).toNat := by decide

theorem witness_KeyrWaitsOrConsumes :
    State.reset.wake = none ∧ { State.reset with wake := some 15 }.wake = some (15 : Fin 16) := by decide

theorem witness_InputEventEffect :
    State.reset.leftCpu = 0 ∧ { State.reset with qCpu := [.input 15 true, .tick 1] }.qCpu = .input 15 true :: [.tick 1] := by decide

theorem witness_KeyrTakesNextPress : State.reset.wake = none ∧ ∃ t, exec (.keyr 2) State.reset = .next t := ⟨rfl, _, rfl⟩

theorem witness_TimerTickCounts : { State.reset with leftTimer := 1 }.leftTimer = 0 + 1 := rfl

theorem witness_SoundTickNotifies :
    { State.reset with leftSound := 1 }.leftSound = 0 + 1 ∧
    { State.reset with stFlag := true }.stFlag = true ∧ { State.reset with st := 1 }.st = 1 ∧ State.reset.stFlag = false ∧
    { State.reset with st := 2 }.st ≠ 1 := by decide

theorem witness_ConsumeWholeExact : F64.one.representable ∧ (F64.round 5 2).representable := by
  unfold F64.representable
  decide +kernel

/-- The last clause at two ties: 1/2 lies between 0 and 1, 2^53 + 1 between 2^53 and 2^53 + 2. -/
theorem witness_RoundsToNearest :
    0 < 2 ∧ F64.representable ⟨1⟩ ∧ (⟨1⟩ : F64) ≠ F64.round 1 2 ∧
    |((⟨1⟩ : F64).units * (2 : Nat) : Int) - (1 : Nat)| = |((F64.round 1 2).units * (2 : Nat) : Int) - (1 : Nat)| ∧
    F64.representable ⟨2 ^ 53 + 2⟩ ∧ (⟨2 ^ 53 + 2⟩ : F64) ≠ F64.round (2 ^ 53 + 1) 1 ∧
    |((⟨2 ^ 53 + 2⟩ : F64).units * (1 : Nat) : Int) - (2 ^ 53 + 1 : Nat)| =
      |((F64.round (2 ^ 53 + 1) 1).units * (1 : Nat) : Int) - (2 ^ 53 + 1 : Nat)| := by
  unfold F64.representable
  decide +kernel

theorem witness_RunStartsFrame : State.reset.status = .running ∧ ∀ c, State.reset.queueLength c < Config.queueCap := by
  refine ⟨rfl, fun c => ?_⟩
  cases c <;> exact Nat.succ_pos _

theorem witness_FrameEndDelivers :
    { State.reset with phase := .dispatch, qHost := [.videoChanged] }.phase = .dispatch ∧ State.reset.status = .running ∧
    pickController { State.reset with phase := .dispatch, qHost := [.videoChanged] } = none ∧
    pickController { State.reset with
      phase := .dispatch, dispatchMode := .concurrent, leftCpu := 1, status := .faulted (.stackUnderflow 0x200) } = none ∧
    (State.reset.setStatus (.faulted (.stackUnderflow 0x200))).status = .faulted (.stackUnderflow 0x200) := by decide

theorem witness_UninitializedRefuses : { State.reset with status := .uninitialized }.status = .uninitialized := rfl

theorem witness_SetKeyOnlyEnqueues :
    State.reset.status ≠ .uninitialized ∧ 15 < 16 ∧ (15 : Fin 16).val = 15 ∧ State.reset.qCpu.length < Config.queueCap ∧
    Config.queueCap ≤ { State.reset with qCpu := List.replicate Config.queueCap (.tick 0) }.qCpu.length ∧
    State.reset.status = .running ∧ (State.reset.setStatus (.faulted (.stackUnderflow 0x200))).status ≠ .running :=
  ⟨by decide, by decide, rfl, Nat.succ_pos _, Nat.le_of_eq List.length_replicate.symm, rfl, by decide⟩

theorem witness_ResetEstablishes : (List.replicate 3584 (0 : Byte)).length ≤ 3584 ∧ ([] : List Byte).length ≤ 3584 :=
  ⟨Nat.le_of_eq List.length_replicate, Nat.zero_le _⟩

theorem witness_FailedResetChangesNothing :
    (∀ rom, some (List.replicate 3585 (0 : Byte)) = some rom → 3584 < rom.length) ∧
    ∀ rom : List Byte, none = some rom → 3584 < rom.length := by
  constructor
  · intro rom h
    cases h
    rw [List.length_replicate]
    decide
  · intro rom h
    cases h

/-- A faulted block. -/
def faultedState : State := State.reset.setStatus (.faulted (.stackUnderflow 0x200))

/-- The end of a faulting frame, a change of configuration, and the `reset` that ends the fault. -/
theorem witness_FaultIsSticky :
    faultedState.status = .faulted (.stackUnderflow 0x200) ∧
    (∃ t, step { faultedState with phase := .dispatch, dispatchMode := .concurrent } = .next t) ∧
    (∃ t, step { faultedState with pending := [.setDispatch .concurrent] } = .next t) ∧
    (∃ t, step { faultedState with pending := [.reset (some []) (Vector.replicate 80 0)] } = .next t) ∧
    State.hostIssues { faultedState with pending := [.reset (some []) (Vector.replicate 80 0)] }
      (.reset (some []) (Vector.replicate 80 0)) :=
  ⟨rfl, ⟨_, rfl⟩, ⟨_, rfl⟩, ⟨_, rfl⟩, .inl rfl⟩

theorem witness_FaultedRunReturnsFault : faultedState.status = .faulted (.stackUnderflow 0x200) := rfl

theorem witness_HiddenStateIsHidden :
    ∃ t, exec (.add 1 2) (withRegs [(1, 0xFF), (2, 1)]) = .next t ∧ t.reg 15 = 1 := ⟨_, rfl, by decide⟩

theorem witness_StoresNothingElse :
    (∃ t, exec (.save 1) (State.reset.setI 0x300) = .next t) ∧ ¬ storesTo (.save 1) (State.reset.setI 0x300) 0x302 ∧
    ¬ storesTo (.save 1) (State.reset.setI 0x300) 0x2FF ∧ (∃ t, exec (.bcd 0) (State.reset.setI 0x300) = .next t) ∧
    ¬ storesTo (.bcd 0) (State.reset.setI 0x300) 0x303 :=
  ⟨⟨_, rfl⟩, by simp [storesTo, effAddr, State.setI], by simp [storesTo, effAddr, State.setI], ⟨_, rfl⟩,
    by simp [storesTo, effAddr, State.setI]⟩

theorem witness_WhoWritesWhat : ∃ t, exec (.draw 0 1 5) State.reset = .next t := ⟨_, rfl⟩

/-- A frame in progress: a return address on the stack, a halted CPU, one listed byte and a tick to perform. -/
def busyState : State :=
  { State.reset with
    phase := .dispatch
    response := none
    leftCpu := 1
    sp := 1
    stack := State.reset.stack.set 0 0x202
    halt := true
    mem := [(0x200, 0x12)] }

theorem witness_StepKeepsInv : Inv busyState ∧ ∃ t, step busyState = .next t := by
  have hone : F64.one.representable := by
    unfold F64.representable
    decide +kernel
  refine ⟨⟨by decide, fun c => ?_, fun c => ?_, fun _ => rfl, by decide, fun k hk => ?_, fun c => ?_, by decide, fun h => ?_,
    fun _ => by decide⟩, _, rfl⟩
  · cases c <;> exact F64.oneUnits_pos
  · cases c <;> exact ⟨F64.zero_representable, hone⟩
  · have h0 : k.val < 1 := hk
    have : k = 0 := Fin.ext (by omega)
    subst this
    decide
  · cases c <;> exact Nat.zero_le _
  · cases h

theorem witness_SlicesInOrder :
    Memory.wf [(0x300, 7)] ∧ 4096 + 0 ≤ 4096 ∧ 0 + 4096 ≤ 4096 ∧ 4096 < 4097 + 0 ∧ 4096 < 4095 + 2 ∧
    4094 + [1, 2].length ≤ 4096 ∧ [1, 2][1]? = some 2 ∧ 4096 < 4097 + ([] : List Byte).length := by decide

theorem witness_StepPerformsHostOperation :
    State.reset.phase = .idle ∧ State.reset.pending = [] ∧
    { State.reset with pending := [.reset none (Vector.replicate 80 0)] }.pending = .reset none (Vector.replicate 80 0) :: [] ∧
    { State.reset with pending := [.run 5] }.pending = .run 5 :: [] ∧
    { State.reset with pending := [.setKey 16 true] }.pending = .setKey 16 true :: [] ∧
    { State.reset with pending := [.dumpMemory true] }.pending = .dumpMemory true :: [] ∧
    { State.reset with pending := [.setBias .cpu 0] }.pending = .setBias .cpu 0 :: [] ∧
    { State.reset with pending := [.setDispatch .concurrent] }.pending = .setDispatch .concurrent :: [] ∧
    { State.reset with pending := [.setCallbacks true true] }.pending = .setCallbacks true true :: [] := by decide

/-- A state in phase 2 of a frame. -/
def frameState : State := { State.reset with phase := .dispatch }

theorem witness_StepDrainsQueues :
    frameState.phase = .dispatch ∧
    pickController { frameState with leftTimer := 1 } = some (.timer, { frameState with leftTimer := 1 }) ∧
    pickController { frameState with qTimer := [3] } = some (.timer, { frameState with qTimer := [3] }) ∧
    pickController { frameState with leftSound := 1 } = some (.sound, { frameState with leftSound := 1 }) ∧
    pickController { frameState with qSound := [3] } = some (.sound, { frameState with qSound := [3] }) ∧
    pickController { frameState with leftCpu := 1 } = some (.cpu, { frameState with leftCpu := 1 }) ∧
    pickController { frameState with qCpu := [.tick 3] } = some (.cpu, { frameState with qCpu := [.tick 3] }) ∧
    pickController { frameState with qCpu := [.input 15 true] } = some (.cpu, { frameState with qCpu := [.input 15 true] }) ∧
    frameState.leftTimer = 0 ∧ frameState.leftSound = 0 ∧ frameState.leftCpu = 0 := by decide

/-- The bits of infinity, -1.0, the least negative number, minus zero, 0, the least positive number and the greatest finite one, by clause. -/
theorem witness_DumpAndConfigure :
    (0x7FF0000000000000#64).toNat / 2 ^ 52 % 2 ^ 11 = 2047 ∧
    ((0xBFF0000000000000#64).getLsbD 63 = true ∧ (0xBFF0000000000000#64).toNat / 2 ^ 52 % 2 ^ 11 ≠ 0) ∧
    ((0x8000000000000001#64).getLsbD 63 = true ∧ (0x8000000000000001#64).toNat % 2 ^ 52 ≠ 0) ∧
    ((0x8000000000000000#64).toNat / 2 ^ 52 % 2 ^ 11 = 0 ∧ (0x8000000000000000#64).toNat % 2 ^ 52 = 0) ∧
    (0#64).getLsbD 63 = false ∧ (1#64).getLsbD 63 = false ∧
    ((0x7FEFFFFFFFFFFFFF#64).toNat / 2 ^ 52 % 2 ^ 11 ≠ 2047 ∧ (0x7FEFFFFFFFFFFFFF#64).getLsbD 63 = false) ∧
    State.reset.status ≠ .uninitialized ∧ F64.ofBits 0 = some F64.zero ∧ F64.ofBits 0xBFF0000000000000 = none := by
  decide +kernel

end Sys2Proof.Tests
end

section
/-!
PROOFS of the family 20_memory.md: bitfields bit by bit (R42 to R44) and 16-bit accesses (R49, R50).
-/

namespace Sys2Proof.Machine

/-- The mask of a field has its `length` low bits set, as far as the element reaches (R42). -/
theorem getLsbD_fieldMask (w length k : Nat) :
    (fieldMask w length).getLsbD k = (decide (k < w) && decide (k < length)) := by
  rw [fieldMask, BitVec.getLsbD_ofNat, Nat.testBit_two_pow_sub_one]

/-- Masking a value leaves its `length` low bits: past the element's end, where the mask has no bits, the value has none either (R42). -/
theorem getLsbD_and_fieldMask {w : Nat} (v : BitVec w) (length k : Nat) :
    (v &&& fieldMask w length).getLsbD k = (decide (k < length) && v.getLsbD k) := by
  rw [BitVec.getLsbD_and, getLsbD_fieldMask]
  by_cases hk : k < w
  · simp [hk, Bool.and_comm]
  · simp [hk, BitVec.getLsbD_of_ge v k (Nat.le_of_not_lt hk)]

/-- `read_bitfield`, bit by bit (R43). -/
theorem getLsbD_readField {w : Nat} (v : BitVec w) (start length k : Nat) :
    (readField v start length).getLsbD k = (decide (k < length) && v.getLsbD (start + k)) := by
  rw [readField, getLsbD_and_fieldMask, BitVec.getLsbD_ushiftRight]

/-- `write_bitfield` inside the field: the value's low bits (R44). -/
theorem getLsbD_writeField_inside {w : Nat} (old value : BitVec w) {start length k : Nat}
    (hw : start + length ≤ w) (hstart : start ≤ k) (hend : k < start + length) :
    (writeField old start length value).getLsbD k = value.getLsbD (k - start) := by
  have hk : k < w := by omega
  have hlength : k - start < length := by omega
  have hmask : (fieldMask w length <<< start).getLsbD k = true := by
    rw [BitVec.getLsbD_shiftLeft, getLsbD_fieldMask]
    simp [hk, hstart, hlength, show k - start < w by omega]
  rw [writeField, BitVec.getLsbD_or, BitVec.getLsbD_and, BitVec.getLsbD_not, hmask,
    BitVec.getLsbD_shiftLeft, getLsbD_and_fieldMask]
  simp [hk, hstart, hlength]

/-- `write_bitfield` outside the field: the old bits, preserved (R44). -/
theorem getLsbD_writeField_outside {w : Nat} (old value : BitVec w) {start length k : Nat}
    (hout : ¬(start ≤ k ∧ k < start + length)) :
    (writeField old start length value).getLsbD k = old.getLsbD k := by
  have hno : k < start ∨ ¬ k - start < length := by omega
  have hmask : (fieldMask w length <<< start).getLsbD k = false := by
    rw [BitVec.getLsbD_shiftLeft, getLsbD_fieldMask]
    rcases hno with h | h <;> simp [h]
  have hvalue : ((value &&& fieldMask w length) <<< start).getLsbD k = false := by
    rw [BitVec.getLsbD_shiftLeft, getLsbD_and_fieldMask]
    rcases hno with h | h <;> simp [h]
  rw [writeField, BitVec.getLsbD_or, BitVec.getLsbD_and, BitVec.getLsbD_not, hmask, hvalue]
  by_cases hk : k < w
  · simp [hk]
  · simp [hk, BitVec.getLsbD_of_ge old k (Nat.le_of_not_lt hk)]

/-- Settles O5, one bit at a time: the mask's bits say which bits of a field are read, cleared and set. -/
theorem bitfieldBits : Obligations.BitfieldBits := by
  unfold Obligations.BitfieldBits
  refine ⟨fun w v start length k => getLsbD_readField v start length k, ?_⟩
  intro w old value start length k hw
  split
  · next hin =>
    obtain ⟨hstart, hend⟩ := hin
    exact getLsbD_writeField_inside old value hw hstart hend
  · next hout => exact getLsbD_writeField_outside old value hout

/-- The high byte of a word as a number (R49). -/
theorem highByte_toNat (v : Word) : (highByte v).toNat = v.toNat / 256 := by
  have := v.isLt
  rw [highByte, BitVec.extractLsb'_toNat, Nat.shiftRight_eq_div_pow]
  omega

/-- The low byte of a word as a number (R49). -/
theorem lowByte_toNat (v : Word) : (lowByte v).toNat = v.toNat % 256 := by
  rw [lowByte, BitVec.extractLsb'_toNat, Nat.shiftRight_zero]

/-- A 16-bit read inside `MEM` joins the two bytes, high byte first (R49). -/
theorem Memory.read16_ok {m : Memory} {a : Nat} (h : a ≤ 4094) :
    Memory.read16 m a = .ok (wordOfBytes (Memory.get m a) (Memory.get m (a + 1))) := by
  rcases Memory.read16_cases m a with ⟨-, he⟩ | ⟨hge, -⟩
  · exact he
  · omega

/-- What `MEM` holds after a 16-bit write inside it: the two bytes of the word, high byte lower, and every other byte as
before (R50). -/
theorem Memory.write16_ok {m : Memory} (hm : Memory.wf m) {a : Nat} (v : Word) (h : a ≤ 4094) :
    ∃ m', Memory.write16 m a v = .ok m' ∧ Memory.get m' a = highByte v ∧ Memory.get m' (a + 1) = lowByte v ∧
      ∀ b, b ≠ a → b ≠ a + 1 → Memory.get m' b = Memory.get m b := by
  rcases Memory.write16_cases m a v with ⟨-, he⟩ | ⟨hge, -⟩
  · have hm₁ : Memory.wf (Memory.set m a (highByte v)) := Memory.wf_set hm _ (show a < 4096 by omega)
    refine ⟨_, he, ?_, Memory.get_set_same hm₁ _ _, fun b hb hb₁ => ?_⟩
    · rw [Memory.get_set_ne _ _ (show a ≠ a + 1 by omega), Memory.get_set_same hm]
    · rw [Memory.get_set_ne _ _ hb₁, Memory.get_set_ne _ _ hb]
  · omega

/-- Settles O7: after the write the two bytes are those of the word, and joining them gives the word back. -/
theorem wordRoundTrip : Obligations.WordRoundTrip := by
  unfold Obligations.WordRoundTrip
  intro m a v hm ha
  have ha' : a ≤ 4094 := by omega
  obtain ⟨m', hwrite, hhigh, hlow, hframe⟩ := Memory.write16_ok hm v ha'
  refine ⟨m', hwrite, ?_, ?_, ?_, hframe⟩
  · rw [Memory.read16_ok ha', hhigh, hlow, wordOfBytes_bytes]
  · rw [hhigh, highByte_toNat]
  · rw [hlow, lowByte_toNat]

end Sys2Proof.Machine
end

section
/-!
PROOFS of the family 41_flow.md: the jumps (R103, R105), the call (R104) and the register skips (R106 to R109).
-/

namespace Sys2Proof.Machine

/-- Zero extension keeps an address's number (R73). -/
@[simp] theorem zextAddr_toNat (nnn : Addr) : (zextAddr nnn).toNat = nnn.toNat :=
  BitVec.toNat_setWidth_of_le (by decide)

/-- Zero extension keeps a byte's number (R105). -/
@[simp] theorem zextByte_toNat (b : Byte) : (zextByte b).toNat = b.toNat :=
  BitVec.toNat_setWidth_of_le (by decide)

/-- The target of `jumpv0` as a number: at most 4095 + 255, so the sum in 16 bits is the sum of the numbers (R105). -/
theorem zextAddr_add_zextByte_toNat (nnn : Addr) (b : Byte) :
    (zextAddr nnn + zextByte b).toNat = nnn.toNat + b.toNat := by
  have haddr := nnn.isLt
  have hbyte := b.isLt
  rw [BitVec.toNat_add_of_lt, zextAddr_toNat, zextByte_toNat]
  rw [zextAddr_toNat, zextByte_toNat]
  omega

/-- `exec` on `jump` (R103). -/
theorem exec_jump (nnn : Addr) (s : State) : exec (.jump nnn) s = .next (s.setPc (zextAddr nnn)) := rfl

/-- `exec` on `jumpv0` (R105). -/
theorem exec_jumpv0 (nnn : Addr) (s : State) :
    exec (.jumpv0 nnn) s = .next (s.setPc (zextAddr nnn + zextByte (s.reg 0))) := rfl

/-- Settles O13: each jump is one write of `PC`, and the two targets as numbers are those of the zero extensions. -/
theorem jumpTargets : Obligations.JumpTargets := by
  unfold Obligations.JumpTargets
  intro nnn s
  exact ⟨⟨_, exec_jump nnn s, rfl, zextAddr_toNat nnn⟩,
    ⟨_, exec_jumpv0 nnn s, rfl, zextAddr_add_zextByte_toNat nnn (s.reg 0)⟩⟩

/-- `call` when the push succeeds (R104). -/
theorem exec_call_of_push_some {nnn : Addr} {s s' : State} (h : s.push s.pc = some s') :
    exec (.call nnn) s = .next (s'.setPc (zextAddr nnn)) := by
  show execCall nnn s = _
  rw [execCall, h]

/-- `call` when the push finds the stack full (R104, R205). -/
theorem exec_call_of_push_none {nnn : Addr} {s : State} (h : s.push s.pc = none) :
    exec (.call nnn) s = raise (.stackOverflow s.pcFetch) s := by
  show execCall nnn s = _
  rw [execCall, h]

/-- Settles O14, by what a push can do: with room it stores the post-fetch `PC` at `SP`, on a full stack it answers nothing. -/
theorem callPushes : Obligations.CallPushes := by
  unfold Obligations.CallPushes
  intro nnn s
  rcases State.push_cases s s.pc with ⟨hroom, s', hpush, hframe, hsp, hstack⟩ | ⟨hfull, hpush⟩
  · refine ⟨fun _ => ⟨_, exec_call_of_push_some hpush, ?_, zextAddr_toNat nnn, hsp, hstack⟩, fun hfull => by omega⟩
    rw [hframe]
    rfl
  · exact ⟨fun hroom => by omega, fun _ => exec_call_of_push_none hpush⟩

/-- A skip whose Boolean test decides `P` moves `PC` by two exactly when `P` holds, and changes nothing else (R93). -/
theorem State.skipIf_eq_of_iff (s : State) {c : Bool} {P : Prop} [Decidable P] (h : c = true ↔ P) :
    s.skipIf c = { s with pc := if P then s.pc + 2 else s.pc } := by
  rw [State.skipIf_eq, if_congr h rfl rfl]
  rfl

/-- `exec` on `sifeqi` (R106). -/
theorem exec_sifeqi (x : Nibble) (kk : Byte) (s : State) :
    exec (.sifeqi x kk) s = .next (s.skipIf (s.reg x == kk)) := rfl

/-- `exec` on `sifnei` (R107). -/
theorem exec_sifnei (x : Nibble) (kk : Byte) (s : State) :
    exec (.sifnei x kk) s = .next (s.skipIf (s.reg x != kk)) := rfl

/-- `exec` on `sifeq`: the low nibble plays no part (R108, R77). -/
theorem exec_sifeq (x y n : Nibble) (s : State) :
    exec (.sifeq x y n) s = .next (s.skipIf (s.reg x == s.reg y)) := rfl

/-- `exec` on `sifne` (R109). -/
theorem exec_sifne (x y : Nibble) (s : State) :
    exec (.sifne x y) s = .next (s.skipIf (s.reg x != s.reg y)) := rfl

/-- Settles O17: each of the four is one skip, and its Boolean test decides the condition of the rule. -/
theorem registerSkips : Obligations.RegisterSkips := by
  unfold Obligations.RegisterSkips
  intro x y n kk s
  refine ⟨?_, ?_, ?_, ?_⟩
  · rw [exec_sifeqi, State.skipIf_eq_of_iff s beq_iff_eq]
  · rw [exec_sifnei, State.skipIf_eq_of_iff s bne_iff_ne]
  · rw [exec_sifeq, State.skipIf_eq_of_iff s beq_iff_eq]
  · rw [exec_sifne, State.skipIf_eq_of_iff s bne_iff_ne]

end Sys2Proof.Machine
end

section
/-!
PROOFS of the family 42_alu.md: moves and `addi` (R121 to R123), logic (R124 to R126), and the five flag writers (R127 to R131), which
write `VF` first and the result second (R134).
-/

namespace Sys2Proof.Machine

/-- A register reads back what is written to it (R10). -/
theorem State.reg_setReg_same (s : State) (x : Nibble) (b : Byte) : (s.setReg x b).reg x = b := by
  rw [State.reg_setReg, if_pos rfl]

/-- A register write leaves the other registers alone (R10). -/
theorem State.reg_setReg_ne (s : State) {x j : Nibble} (b : Byte) (hj : j ≠ x) : (s.setReg x b).reg j = s.reg j := by
  rw [State.reg_setReg, if_neg hj]

/-- `exec` on `movi` (R121). -/
theorem exec_movi (x : Nibble) (kk : Byte) (s : State) : exec (.movi x kk) s = .next (s.setReg x kk) := rfl

/-- `exec` on `addi` (R122). -/
theorem exec_addi (x : Nibble) (kk : Byte) (s : State) : exec (.addi x kk) s = .next (s.setReg x (s.reg x + kk)) := rfl

/-- `exec` on `mov` (R123). -/
theorem exec_mov (x y : Nibble) (s : State) : exec (.mov x y) s = .next (s.setReg x (s.reg y)) := rfl

/-- Settles O18: each of the three is one register write, and the 8-bit sum of `addi` is the sum modulo 256. -/
theorem movesAndAddi : Obligations.MovesAndAddi := by
  unfold Obligations.MovesAndAddi
  intro x y kk s
  refine ⟨⟨_, exec_movi x kk s, rfl, fun j => State.reg_setReg s x j kk⟩,
    ⟨_, exec_addi x kk s, rfl, ?_, fun j hj => State.reg_setReg_ne s _ hj⟩,
    ⟨_, exec_mov x y s, rfl, fun j => State.reg_setReg s x j (s.reg y)⟩⟩
  rw [State.reg_setReg_same, BitVec.toNat_add]

/-- `exec` on `or` (R124). -/
theorem exec_or (x y : Nibble) (s : State) : exec (.or x y) s = .next (s.setReg x (s.reg x ||| s.reg y)) := rfl

/-- `exec` on `and` (R125). -/
theorem exec_and (x y : Nibble) (s : State) : exec (.and x y) s = .next (s.setReg x (s.reg x &&& s.reg y)) := rfl

/-- `exec` on `xor` (R126). -/
theorem exec_xor (x y : Nibble) (s : State) : exec (.xor x y) s = .next (s.setReg x (s.reg x ^^^ s.reg y)) := rfl

/-- Settles O19: each of the three is one write of `Vx`, and the word operation acts on each bit alone. -/
theorem logicBitwise : Obligations.LogicBitwise := by
  unfold Obligations.LogicBitwise
  intro x y s
  refine ⟨⟨_, exec_or x y s, rfl, fun j hj => State.reg_setReg_ne s _ hj, fun k => ?_⟩,
    ⟨_, exec_and x y s, rfl, fun j hj => State.reg_setReg_ne s _ hj, fun k => ?_⟩,
    ⟨_, exec_xor x y s, rfl, fun j hj => State.reg_setReg_ne s _ hj, fun k => ?_⟩⟩
  · rw [State.reg_setReg_same, BitVec.getLsbD_or]
  · rw [State.reg_setReg_same, BitVec.getLsbD_and]
  · rw [State.reg_setReg_same, BitVec.getLsbD_xor]

/-- Everything a flag writer does: the result in `Vx` also for `x = 15`, the flag in `VF` unless the result is there, every other register
and every other field as before (R120, R134). -/
theorem exec_flagWriter {i : Instr} {s : State} {x : Nibble} {flag : Bool} {result : Byte}
    (h : exec i s = .next (flagThenResult s x flag result)) :
    ∃ t, exec i s = .next t ∧ t = { s with v := t.v } ∧ t.reg x = result ∧ (x ≠ 15 → t.reg 15 = flagByte flag) ∧
      ∀ j, j ≠ x → j ≠ 15 → t.reg j = s.reg j := by
  refine ⟨_, h, flagThenResult_frame s x flag result, ?_, fun hx => ?_, fun j hj hj15 => ?_⟩
  · rw [flagThenResult_reg, if_pos rfl]
  · rw [flagThenResult_reg, if_neg hx.symm, if_pos rfl]
  · rw [flagThenResult_reg, if_neg hj, if_neg hj15]

/-- The byte of a flag that decides `P` (R120). -/
theorem flagByte_decide (P : Prop) [Decidable P] : flagByte (decide P) = if P then 1 else 0 :=
  if_congr decide_eq_true_iff rfl rfl

/-- The byte of a flag as a number (R120). -/
theorem flagByte_toNat (b : Bool) : (flagByte b).toNat = b.toNat := by cases b <;> rfl

/-- `exec` on `add` (R127). -/
theorem exec_add (x y : Nibble) (s : State) :
    exec (.add x y) s = .next (flagThenResult s x (carryOf (s.reg x) (s.reg y)) (s.reg x + s.reg y)) := rfl

/-- Settles O20: `add` is a flag writer whose result is the 8-bit sum and whose flag is the carry. -/
theorem addWithCarry : Obligations.AddWithCarry := by
  unfold Obligations.AddWithCarry
  intro x y s
  obtain ⟨t, hexec, hframe, hresult, hflag, hother⟩ := exec_flagWriter (exec_add x y s)
  refine ⟨t, hexec, hframe, ?_, fun hx => ?_, hother⟩
  · rw [hresult, BitVec.toNat_add]
  · rw [hflag hx, carryOf, flagByte_decide]

/-- The 8-bit difference as an integer is the difference modulo 256 (R128, R130). -/
theorem toNat_sub_byte (a b : Byte) : ((a - b).toNat : Int) = ((a.toNat : Int) - b.toNat) % 256 := by
  have hb := b.isLt
  rw [BitVec.toNat_sub]
  omega

/-- `exec` on `sub` (R128). -/
theorem exec_sub (x y : Nibble) (s : State) :
    exec (.sub x y) s = .next (flagThenResult s x (noBorrowOf (s.reg x) (s.reg y)) (s.reg x - s.reg y)) := rfl

/-- `exec` on `rsub` (R130). -/
theorem exec_rsub (x y : Nibble) (s : State) :
    exec (.rsub x y) s = .next (flagThenResult s x (noBorrowOf (s.reg y) (s.reg x)) (s.reg y - s.reg x)) := rfl

/-- What a subtraction `a - b` into `Vx` does (R128, R130). -/
theorem exec_subtraction {i : Instr} {s : State} {x : Nibble} {a b : Byte}
    (h : exec i s = .next (flagThenResult s x (noBorrowOf a b) (a - b))) :
    ∃ t, exec i s = .next t ∧ t = { s with v := t.v } ∧ ((t.reg x).toNat : Int) = ((a.toNat : Int) - b.toNat) % 256 ∧
      (x ≠ 15 → t.reg 15 = if b.toNat ≤ a.toNat then 1 else 0) ∧ ∀ j, j ≠ x → j ≠ 15 → t.reg j = s.reg j := by
  obtain ⟨t, hexec, hframe, hresult, hflag, hother⟩ := exec_flagWriter h
  refine ⟨t, hexec, hframe, ?_, fun hx => ?_, hother⟩
  · rw [hresult, toNat_sub_byte]
  · rw [hflag hx, noBorrowOf, flagByte_decide]

/-- Settles O21: `sub` and `rsub` are one subtraction with its operands in the two orders. -/
theorem subtractWithNoBorrow : Obligations.SubtractWithNoBorrow := by
  unfold Obligations.SubtractWithNoBorrow
  intro x y s
  exact ⟨exec_subtraction (exec_sub x y s), exec_subtraction (exec_rsub x y s)⟩

/-- The bit that a right shift moves out is the remainder by 2 (R129). -/
theorem lowBitOf_toNat (a : Byte) : (lowBitOf a).toNat = a.toNat % 2 := by
  rw [lowBitOf, BitVec.getLsbD, Nat.toNat_testBit, Nat.pow_zero, Nat.div_one]

/-- The bit that a left shift moves out is the quotient by 128, which is 0 or 1 for a byte (R131). -/
theorem highBitOf_toNat (a : Byte) : (highBitOf a).toNat = a.toNat / 128 := by
  have ha := a.isLt
  rw [highBitOf, BitVec.getLsbD, Nat.toNat_testBit]
  omega

/-- `exec` on `shr1`: `y` plays no part (R129, R77). -/
theorem exec_shr1 (x y : Nibble) (s : State) :
    exec (.shr1 x y) s = .next (flagThenResult s x (lowBitOf (s.reg x)) (s.reg x >>> 1)) := rfl

/-- `exec` on `shl1`: `y` plays no part (R131, R77). -/
theorem exec_shl1 (x y : Nibble) (s : State) :
    exec (.shl1 x y) s = .next (flagThenResult s x (highBitOf (s.reg x)) (s.reg x <<< 1)) := rfl

/-- `shr1`: half of `Vx`, the remainder in `VF` (R129). -/
theorem exec_shr1_halves (x y : Nibble) (s : State) :
    ∃ t, exec (.shr1 x y) s = .next t ∧ t = { s with v := t.v } ∧ (t.reg x).toNat = (s.reg x).toNat / 2 ∧
      (x ≠ 15 → (t.reg 15).toNat = (s.reg x).toNat % 2) ∧ ∀ j, j ≠ x → j ≠ 15 → t.reg j = s.reg j := by
  obtain ⟨t, hexec, hframe, hresult, hflag, hother⟩ := exec_flagWriter (exec_shr1 x y s)
  refine ⟨t, hexec, hframe, ?_, fun hx => ?_, hother⟩
  · rw [hresult, BitVec.toNat_ushiftRight, Nat.shiftRight_eq_div_pow, Nat.pow_one]
  · rw [hflag hx, flagByte_toNat, lowBitOf_toNat]

/-- `shl1`: twice `Vx` modulo 256, the bit of weight 128 in `VF` (R131). -/
theorem exec_shl1_doubles (x y : Nibble) (s : State) :
    ∃ t, exec (.shl1 x y) s = .next t ∧ t = { s with v := t.v } ∧ (t.reg x).toNat = 2 * (s.reg x).toNat % 256 ∧
      (x ≠ 15 → (t.reg 15).toNat = (s.reg x).toNat / 128) ∧ ∀ j, j ≠ x → j ≠ 15 → t.reg j = s.reg j := by
  obtain ⟨t, hexec, hframe, hresult, hflag, hother⟩ := exec_flagWriter (exec_shl1 x y s)
  refine ⟨t, hexec, hframe, ?_, fun hx => ?_, hother⟩
  · rw [hresult, BitVec.toNat_shiftLeft, Nat.shiftLeft_eq, Nat.pow_one, Nat.mul_comm]
  · rw [hflag hx, flagByte_toNat, highBitOf_toNat]

/-- Settles O22: both shifts are flag writers, halving and doubling as numbers. -/
theorem shiftByOne : Obligations.ShiftByOne := by
  unfold Obligations.ShiftByOne
  intro x y s
  exact ⟨exec_shr1_halves x y s, exec_shl1_doubles x y s⟩

end Sys2Proof.Machine
end

section
/-!
PROOFS of the family 43_index_memory.md: the writes of `I` (R141 to R143), the decimal digits (R144), and the register loops `save` (R145)
and `load` (R146), each with room in `MEM` and without.
-/

namespace Sys2Proof.Machine

/-- `exec` on `movidx` (R141). -/
theorem exec_movidx (nnn : Addr) (s : State) : exec (.movidx nnn) s = .next (s.setI (zextAddr nnn)) := rfl

/-- `exec` on `addidx` (R142). -/
theorem exec_addidx (x : Nibble) (s : State) : exec (.addidx x) s = .next (s.setI (s.i + zextByte (s.reg x))) := rfl

/-- `exec` on `font` (R143). -/
theorem exec_font (x : Nibble) (s : State) : exec (.font x) s = .next (s.setI (5 * zextByte (s.reg x))) := rfl

/-- A byte added to a 16-bit value as a number: the sum wraps at 65536 (R142). -/
theorem add_zextByte_toNat (a : Word) (b : Byte) : (a + zextByte b).toNat = (a.toNat + b.toNat) % 65536 := by
  rw [BitVec.toNat_add, zextByte_toNat]

/-- Five times a byte as a number: at most 5 * 255, so the product in 16 bits is the product of the numbers (R143). -/
theorem five_mul_zextByte_toNat (b : Byte) : (5 * zextByte b).toNat = 5 * b.toNat := by
  have hb := b.isLt
  rw [BitVec.toNat_mul, zextByte_toNat, show (5 : Word).toNat = 5 from rfl, Nat.mod_eq_of_lt (by omega)]

/-- Settles O24: each of the three is one write of `I`, and the value written is known as a number. -/
theorem indexWrites : Obligations.IndexWrites := by
  unfold Obligations.IndexWrites
  intro nnn x s
  exact ⟨⟨_, exec_movidx nnn s, rfl, zextAddr_toNat nnn⟩,
    ⟨_, exec_addidx x s, rfl, add_zextByte_toNat s.i (s.reg x)⟩,
    ⟨_, exec_font x s, rfl, five_mul_zextByte_toNat (s.reg x)⟩⟩

/-- `exec` on `bcd` (R144). -/
theorem exec_bcd (x : Nibble) (s : State) : exec (.bcd x) s = storeBytes (bcdDigits (s.reg x)) s.i.toNat s := rfl

/-- The three bytes of `bcdDigits` as numbers: each digit is small enough for a byte (R144). -/
theorem bcdDigits_toNat (b : Byte) :
    ((bcdDigits b).getD 0 0).toNat = b.toNat / 100 ∧ ((bcdDigits b).getD 1 0).toNat = b.toNat / 10 % 10 ∧
      ((bcdDigits b).getD 2 0).toNat = b.toNat % 10 := by
  have hb := b.isLt
  exact ⟨Nat.mod_eq_of_lt (by omega), Nat.mod_eq_of_lt (by omega), Nat.mod_eq_of_lt (by omega)⟩

/-- `bcd` with room: digit `k` stands at `I + k`, every other byte as before (R144). -/
theorem exec_bcd_fits {x : Nibble} {s : State} (hw : Memory.wf s.mem) (hfit : s.i.toNat + 2 ≤ 4095) :
    ∃ m, exec (.bcd x) s = .next (s.setMem m) ∧
      (∀ k, k < 3 → Memory.get m (s.i.toNat + k) = (bcdDigits (s.reg x)).getD k 0) ∧
      ∀ a, (a < s.i.toNat ∨ s.i.toNat + 2 < a) → Memory.get m a = s.byteAt a := by
  have hlen : (bcdDigits (s.reg x)).length = 3 := rfl
  obtain ⟨m, hrun, -, hget⟩ := storeBytes_ok (bs := bcdDigits (s.reg x)) hw (a := s.i.toNat) (by omega)
  rw [hlen] at hget
  refine ⟨m, hrun, fun k hk => ?_, fun a ha => ?_⟩
  · rw [hget, if_pos (by omega), Nat.add_sub_cancel_left]
  · rw [hget, if_neg (by omega)]

/-- `bcd` without room: the digits below 4096 are stored, and the fault names the first address out of range (R144, R203). -/
theorem exec_bcd_faults {x : Nibble} {s : State} (hw : Memory.wf s.mem) (hout : 4096 ≤ s.i.toNat + 2) :
    ∃ m, exec (.bcd x) s = .next ((s.setMem m).setStatus (.faulted (.outOfBounds (max s.i.toNat 4096) 1))) ∧
      (∀ k, s.i.toNat + k ≤ 4095 → Memory.get m (s.i.toNat + k) = (bcdDigits (s.reg x)).getD k 0) ∧
      ∀ a, (a < s.i.toNat ∨ 4095 < a) → Memory.get m a = s.byteAt a := by
  have hlen : (bcdDigits (s.reg x)).length = 3 := rfl
  obtain ⟨m, hrun, hget⟩ := storeBytes_fault (bs := bcdDigits (s.reg x)) hw (List.cons_ne_nil _ _) (a := s.i.toNat) (by omega)
  refine ⟨m, hrun, fun k hk => ?_, fun a ha => ?_⟩
  · rw [hget, if_pos (by omega), Nat.add_sub_cancel_left]
  · rw [hget, if_neg (by omega)]

/-- Settles O25: the digits by the law of the store loop, with room and without, and their values as numbers. -/
theorem bcdStoresDigits : Obligations.BcdStoresDigits := by
  unfold Obligations.BcdStoresDigits
  intro x s hw
  obtain ⟨hhundreds, htens, hones⟩ := bcdDigits_toNat (s.reg x)
  refine ⟨fun hfit => ?_, fun hout => ?_⟩
  · obtain ⟨m, hexec, hdigit, hother⟩ := exec_bcd_fits (x := x) hw hfit
    have hbyte (k : Nat) (hk : k < 3) := congrArg BitVec.toNat (hdigit k hk)
    exact ⟨_, hexec, rfl, (hbyte 0 (by omega)).trans hhundreds, (hbyte 1 (by omega)).trans htens,
      (hbyte 2 (by omega)).trans hones, hother⟩
  · obtain ⟨m, hexec, hdigit, hother⟩ := exec_bcd_faults (x := x) hw hout
    have hbyte (k : Nat) (hk : s.i.toNat + k ≤ 4095) := congrArg BitVec.toNat (hdigit k hk)
    exact ⟨_, hexec, rfl, fun h0 => (hbyte 0 h0).trans hhundreds, fun h1 => (hbyte 1 h1).trans htens, hother⟩

/-- `I` moved past `m` bytes that all lie inside `MEM` does not wrap (R145, R146). -/
theorem add_ofNat_toNat_of_le {a : Word} {m : Nat} (h : a.toNat + m ≤ 4096) :
    (a + BitVec.ofNat 16 m).toNat = a.toNat + m := by
  rw [BitVec.toNat_add, BitVec.toNat_ofNat]
  omega

/-- A register's number, counted from 0, names the register (R10). -/
theorem ofNat_zero_add_toNat (j : Nibble) : BitVec.ofNat 4 (0 + j.toNat) = j := by
  rw [Nat.zero_add, BitVec.ofNat_toNat, BitVec.setWidth_eq]

/-- `exec` on `save`: the loop over the registers 0 to `x` (R145). -/
theorem exec_save (x : Nibble) (s : State) : exec (.save x) s = saveRegs (regsFrom 0 (x.toNat + 1)) s := by
  rw [← regsUpTo_eq]
  rfl

/-- `save` with room: `Vj` stands at `I + j`, every other byte as before (R145). -/
theorem exec_save_fits {x : Nibble} {s : State} (hw : Memory.wf s.mem) (hfit : s.i.toNat + x.toNat ≤ 4095) :
    ∃ m, exec (.save x) s = .next ((s.setMem m).setI (s.i + BitVec.ofNat 16 (x.toNat + 1))) ∧
      (∀ j : Nibble, j.toNat ≤ x.toNat → Memory.get m (s.i.toNat + j.toNat) = s.reg j) ∧
      ∀ a, (a < s.i.toNat ∨ s.i.toNat + x.toNat < a) → Memory.get m a = s.byteAt a := by
  have hx := x.isLt
  obtain ⟨m, hrun, -, hstored, hother⟩ := saveRegs_ok (m := x.toNat + 1) (k := 0) hw (by omega) (by omega)
  refine ⟨m, (exec_save x s).trans hrun, fun j hj => ?_, fun a ha => hother a (by omega)⟩
  rw [hstored _ (by omega), ofNat_zero_add_toNat]

/-- `save` without room: the registers whose byte is inside `MEM` are stored, `I` has moved past them, and the fault names the
first address out of range (R145, R203). -/
theorem exec_save_faults {x : Nibble} {s : State} (hw : Memory.wf s.mem) (hout : 4096 ≤ s.i.toNat + x.toNat) :
    ∃ m i, exec (.save x) s =
        .next (((s.setMem m).setI i).setStatus (.faulted (.outOfBounds (max s.i.toNat 4096) 1))) ∧
      i.toNat = max s.i.toNat 4096 ∧
      (∀ j : Nibble, s.i.toNat + j.toNat ≤ 4095 → Memory.get m (s.i.toNat + j.toNat) = s.reg j) ∧
      ∀ a, (a < s.i.toNat ∨ 4095 < a) → Memory.get m a = s.byteAt a := by
  have hx := x.isLt
  obtain ⟨m, i, hrun, hi, hstored, hother⟩ :=
    saveRegs_fault (m := x.toNat + 1) (k := 0) hw (by omega) (by omega) (by omega)
  refine ⟨m, i, (exec_save x s).trans hrun, hi, fun j hj => ?_, fun a ha => hother a (by omega)⟩
  rw [hstored _ (by omega), ofNat_zero_add_toNat]

/-- Settles O26, by the law of the loop of `save`, with room and without. -/
theorem saveStoresRegisters : Obligations.SaveStoresRegisters := by
  unfold Obligations.SaveStoresRegisters
  intro x s hw
  refine ⟨fun hfit => ?_, fun hout => ?_⟩
  · obtain ⟨m, hexec, hstored, hother⟩ := exec_save_fits hw hfit
    exact ⟨_, hexec, rfl, add_ofNat_toNat_of_le (by omega), hstored, hother⟩
  · obtain ⟨m, i, hexec, hi, hstored, hother⟩ := exec_save_faults hw hout
    exact ⟨_, hexec, rfl, hi, hstored, hother⟩

/-- `exec` on `load`: the loop over the registers 0 to `x` (R146). -/
theorem exec_load (x : Nibble) (s : State) : exec (.load x) s = loadRegs (regsFrom 0 (x.toNat + 1)) s := by
  rw [← regsUpTo_eq]
  rfl

/-- `load` with room: `V0` to `Vx` hold the bytes at `I` upward, the other registers are left alone (R146). -/
theorem exec_load_fits {x : Nibble} {s : State} (hfit : s.i.toNat + x.toNat ≤ 4095) :
    ∃ t, exec (.load x) s = .next t ∧ t = { s with v := t.v, i := t.i } ∧ t.i.toNat = s.i.toNat + x.toNat + 1 ∧
      ∀ j : Nibble, t.reg j = if j.toNat ≤ x.toNat then s.byteAt (s.i.toNat + j.toNat) else s.reg j := by
  have hx := x.isLt
  obtain ⟨t, hrun, hframe, hi, hregs⟩ := loadRegs_ok (s := s) (m := x.toNat + 1) (k := 0) (by omega) (by omega)
  refine ⟨t, (exec_load x s).trans hrun, hframe, ?_, fun j => ?_⟩
  · rw [hi, add_ofNat_toNat_of_le (by omega), Nat.add_assoc]
  · rw [hregs, Nat.sub_zero]
    exact if_congr (by omega) rfl rfl

/-- `load` without room: the registers whose byte is inside `MEM` are loaded, `I` has moved past those bytes, and the fault names
the first address out of range (R146, R203). -/
theorem exec_load_faults {x : Nibble} {s : State} (hout : 4096 ≤ s.i.toNat + x.toNat) :
    ∃ t, exec (.load x) s = .next t ∧
      t = { s with v := t.v, i := t.i, status := .faulted (.outOfBounds (max s.i.toNat 4096) 1) } ∧
      t.i.toNat = max s.i.toNat 4096 ∧
      ∀ j : Nibble, t.reg j =
        if j.toNat ≤ x.toNat ∧ s.i.toNat + j.toNat ≤ 4095 then s.byteAt (s.i.toNat + j.toNat) else s.reg j := by
  have hx := x.isLt
  obtain ⟨t, hrun, hframe, hi, hregs⟩ :=
    loadRegs_fault (s := s) (m := x.toNat + 1) (k := 0) (by omega) (by omega) (by omega)
  refine ⟨t, (exec_load x s).trans hrun, hframe, hi, fun j => ?_⟩
  rw [hregs, Nat.sub_zero]
  exact if_congr (by omega) rfl rfl

/-- Settles O27, by the law of the loop of `load`, with room and without. -/
theorem loadFillsRegisters : Obligations.LoadFillsRegisters := by
  unfold Obligations.LoadFillsRegisters
  intro x s
  exact ⟨exec_load_fits, exec_load_faults⟩

end Sys2Proof.Machine
end

section
/-!
PROOFS of the family 44_display.md: `cls` (R151).
-/

namespace Sys2Proof.Machine

/-- A framebuffer filled with one value reads as that value at every pixel (R150). -/
theorem Framebuffer.pixel_replicate (b : Bool) (py : Fin 32) (px : Fin 64) :
    Framebuffer.pixel (Vector.replicate 32 (Vector.replicate 64 b)) py px = b := by
  rw [Framebuffer.pixel, Vector.get_replicate, Vector.get_replicate]

/-- `exec` on `cls` (R151). -/
theorem exec_cls (s : State) :
    exec .cls s = .next (s.setFb (Vector.replicate 32 (Vector.replicate 64 false))) := rfl

/-- Settles O29: `cls` is one write of the framebuffer, and what it writes reads as 0 at every pixel. -/
theorem clsClears : Obligations.ClsClears := by
  unfold Obligations.ClsClears
  intro s
  exact ⟨_, exec_cls s, rfl, Framebuffer.pixel_replicate false⟩

end Sys2Proof.Machine
end

section
/-!
PROOFS of the family 45_keypad_timers.md: the key skips (R161, R162), the `Input` event (R165) and the sound timer's write (R168).
-/

namespace Sys2Proof.Machine

/-- The field of one bit at `k`, as a number, is that bit (R43). -/
theorem readField_one_toNat {w : Nat} (v : BitVec w) (k : Nat) : (readField v k 1).toNat = (v.getLsbD k).toNat := by
  rw [readField_toNat, BitVec.getLsbD, Nat.toNat_testBit, Nat.pow_one]

/-- The key test answers bit `k` of `KEYPAD` (R160). -/
theorem keyPressed_eq_getLsbD (keypad : Word) (k : Nat) : keyPressed keypad k = keypad.getLsbD k := by
  rw [keyPressed, Bool.eq_iff_iff, beq_iff_eq, ← BitVec.toNat_inj, readField_one_toNat, show (1 : Word).toNat = 1 from rfl,
    Bool.toNat_eq_one]

/-- A key skip with `Vx` at most 15: one skip, taken when the key's bit is the wanted one (R161, R162). -/
theorem keySkip_of_le {x : Nibble} {s : State} (wanted : Bool) (hx : (s.reg x).toNat ≤ 15) :
    keySkip x wanted s =
      .next { s with pc := if s.keypad.getLsbD (s.reg x).toNat = wanted then s.pc + 2 else s.pc } := by
  rcases keySkip_cases x wanted s with ⟨-, hskip⟩ | ⟨hgt, -⟩
  · rw [hskip, State.skipIf_eq_of_iff s beq_iff_eq, keyPressed_eq_getLsbD]
  · omega

/-- A key skip with `Vx` above 15 raises the fault of a descriptor that breaks its width (R161, R162, R204). -/
theorem keySkip_of_gt {x : Nibble} {s : State} (wanted : Bool) (hx : 15 < (s.reg x).toNat) :
    keySkip x wanted s = .next { s with status := .faulted (.invariantViolation (s.pc - 2)) } := by
  rcases keySkip_cases x wanted s with ⟨hle, -⟩ | ⟨-, hfault⟩
  · omega
  · exact hfault

/-- `exec` on `sifkeq` (R161). -/
theorem exec_sifkeq (x : Nibble) (s : State) : exec (.sifkeq x) s = keySkip x true s := rfl

/-- `exec` on `sifkne` (R162). -/
theorem exec_sifkne (x : Nibble) (s : State) : exec (.sifkne x) s = keySkip x false s := rfl

/-- Settles O33: the two instructions are one key skip with the two wanted values of the bit. -/
theorem keySkips : Obligations.KeySkips := by
  unfold Obligations.KeySkips
  intro x s
  rw [exec_sifkeq, exec_sifkne]
  exact ⟨fun hx => ⟨keySkip_of_le true hx, keySkip_of_le false hx⟩,
    fun hx => ⟨keySkip_of_gt true hx, keySkip_of_gt false hx⟩⟩

/-- Writing the field of one bit at `k` replaces bit `k` by the value's lowest bit and keeps every other bit (R44). -/
theorem getLsbD_writeField_one {w : Nat} (old value : BitVec w) {k : Nat} (hk : k < w) (j : Nat) :
    (writeField old k 1 value).getLsbD j = if j = k then value.getLsbD 0 else old.getLsbD j := by
  split
  · next heq =>
    rw [heq, getLsbD_writeField_inside old value (by omega) (by omega) (by omega), Nat.sub_self]
  · next hne => exact getLsbD_writeField_outside old value (by omega)

/-- The lowest bit of the value that an `Input` event writes (R165). -/
theorem getLsbD_zero_pressedBit (pressed : Bool) : (if pressed then 1 else 0 : Word).getLsbD 0 = pressed := by
  cases pressed <;> rfl

/-- The CPU controller between two events takes an `Input` from the head of `Q_CPU` and performs it (R165, R179). -/
theorem cpuStep_of_input {s : State} {key : Fin 16} {pressed : Bool} {q : List Event} (hleft : s.leftCpu = 0)
    (hq : s.qCpu = .input key pressed :: q) : cpuStep s = .next (inputEvent key pressed { s with qCpu := q }) := by
  rw [cpuStep, hleft, hq]

/-- An `Input` event writes its key's bit of `KEYPAD` and keeps the other bits (R165). -/
theorem getLsbD_keypad_inputEvent (key : Fin 16) (pressed : Bool) (s : State) (k : Nat) :
    (inputEvent key pressed s).keypad.getLsbD k = if k = key.val then pressed else s.keypad.getLsbD k := by
  rw [congrArg State.keypad (inputEvent_frame key pressed s), getLsbD_writeField_one _ _ key.isLt, getLsbD_zero_pressedBit]

/-- Settles O35: the event is one write of the field of the key's bit, with `HALT` and `WAKE` as `inputEvent_frame` has them. -/
theorem inputEventEffect : Obligations.InputEventEffect := by
  unfold Obligations.InputEventEffect
  intro key pressed s
  refine ⟨?_, getLsbD_keypad_inputEvent key pressed s, ?_, ?_, fun q => cpuStep_of_input⟩
  · rw [inputEvent_frame]
  · rw [inputEvent_frame]
    exact if_congr Bool.and_eq_true_iff rfl rfl
  · rw [inputEvent_frame]
    exact if_congr Bool.and_eq_true_iff rfl rfl

/-- A crossing goes from zero to non-zero or the other way (R218). -/
theorem crossesZero_iff (old new : Byte) : crossesZero old new = true ↔ (old = 0 ∧ new ≠ 0) ∨ (old ≠ 0 ∧ new = 0) := by
  rw [crossesZero, bne_iff_ne, ne_eq, Bool.eq_iff_iff, beq_iff_eq, beq_iff_eq]
  tauto

/-- `exec` on `soundw` (R168). -/
theorem exec_soundw (x : Nibble) (s : State) : exec (.soundw x) s = .next (s.syncWriteSt (s.reg x)) := rfl

/-- Settles O38: `soundw` is one synchronised write of `ST`, whose flag is the old one or a crossing. -/
theorem soundWriteLatches : Obligations.SoundWriteLatches := by
  unfold Obligations.SoundWriteLatches
  intro x s
  refine ⟨_, exec_soundw x s, rfl, ?_⟩
  rw [State.syncWriteSt_stFlag, Bool.or_eq_true, crossesZero_iff]

end Sys2Proof.Machine
end

section
/-!
PROOFS of the encoding (30_encoding.md): decode after encode (R74, R75, R78), encode after decode, and the words that decode to nothing (R76).
-/

namespace Sys2Proof

/-- Settles O1: each of the words is read off the case tree of R74. -/
theorem wordsDecodeAsWritten : Obligations.WordsDecodeAsWritten := by
  unfold Obligations.WordsDecodeAsWritten
  decide

@[simp] theorem fieldOp_encodeA (op : Nibble) (nnn : Addr) : fieldOp (encodeA op nnn) = op := by
  apply BitVec.eq_of_toNat_eq
  rw [fieldOp_toNat, encodeA_toNat]
  omega

@[simp] theorem fieldNnn_encodeA (op : Nibble) (nnn : Addr) : fieldNnn (encodeA op nnn) = nnn := by
  apply BitVec.eq_of_toNat_eq
  rw [fieldNnn_toNat, encodeA_toNat]
  omega

@[simp] theorem fieldOp_encodeXK (op x : Nibble) (kk : Byte) : fieldOp (encodeXK op x kk) = op := by
  apply BitVec.eq_of_toNat_eq
  rw [fieldOp_toNat, encodeXK_toNat]
  omega

@[simp] theorem fieldX_encodeXK (op x : Nibble) (kk : Byte) : fieldX (encodeXK op x kk) = x := by
  apply BitVec.eq_of_toNat_eq
  rw [fieldX_toNat, encodeXK_toNat]
  omega

@[simp] theorem fieldKk_encodeXK (op x : Nibble) (kk : Byte) : fieldKk (encodeXK op x kk) = kk := by
  apply BitVec.eq_of_toNat_eq
  rw [fieldKk_toNat, encodeXK_toNat]
  omega

@[simp] theorem fieldOp_encodeXYN (op x y n : Nibble) : fieldOp (encodeXYN op x y n) = op := by
  apply BitVec.eq_of_toNat_eq
  rw [fieldOp_toNat, encodeXYN_toNat]
  omega

@[simp] theorem fieldX_encodeXYN (op x y n : Nibble) : fieldX (encodeXYN op x y n) = x := by
  apply BitVec.eq_of_toNat_eq
  rw [fieldX_toNat, encodeXYN_toNat]
  omega

@[simp] theorem fieldY_encodeXYN (op x y n : Nibble) : fieldY (encodeXYN op x y n) = y := by
  apply BitVec.eq_of_toNat_eq
  rw [fieldY_toNat, encodeXYN_toNat]
  omega

@[simp] theorem fieldN_encodeXYN (op x y n : Nibble) : fieldN (encodeXYN op x y n) = n := by
  apply BitVec.eq_of_toNat_eq
  rw [fieldN_toNat, encodeXYN_toNat]
  omega

/-- The twelve low bits tell the words of family 0x0 apart (R74). -/
theorem encodeA_injective {op : Nibble} {a b : Addr} (h : encodeA op a = encodeA op b) : a = b := by
  rw [← fieldNnn_encodeA op a, h, fieldNnn_encodeA]

/-- The word of a `sys` is neither that of `cls` nor that of `ret` (R74, R78). -/
theorem decodeZero_encodeA {nnn : Addr} (h : Instr.sysOperandOk nnn = true) :
    decodeZero (encodeA 0x0#4 nnn) = .sys nnn := by
  obtain ⟨hcls, hret⟩ : nnn ≠ 0x0E0#12 ∧ nnn ≠ 0x0EE#12 := by simpa [Instr.sysOperandOk] using h
  have hneCls : encodeA 0x0#4 nnn ≠ 0x00E0#16 := fun he => hcls (encodeA_injective (op := 0x0) he)
  have hneRet : encodeA 0x0#4 nnn ≠ 0x00EE#16 := fun he => hret (encodeA_injective (op := 0x0) he)
  rw [decodeZero, if_neg hneCls, if_neg hneRet, fieldNnn_encodeA]

/-- Settles O2, format by format: the fields of the word are the operands, so the case tree of R74 takes the instruction's own branch. -/
theorem decodeOfEncode : Obligations.DecodeOfEncode := by
  unfold Obligations.DecodeOfEncode
  intro i hwf
  cases i
  case cls | ret => decide
  case sys nnn => simp [encode, decodeWord, decodeZero_encodeA (nnn := nnn) hwf]
  case jump | call | movidx | jumpv0 => simp [encode, decodeWord]
  case sifeqi | sifnei | movi | addi | rand => simp [encode, decodeWord]
  case sifeq | sifne | draw => simp [encode, decodeWord]
  case mov | or | and | xor | add | sub | shr1 | rsub | shl1 => simp [encode, decodeWord, decodeArithmetic]
  case sifkeq | sifkne => simp [encode, decodeWord, decodeKey]
  case timerr | keyr | timerw | soundw | addidx | font | bcd | save | load => simp [encode, decodeWord, decodeMisc]

/-- A word of format A is put together again from its fields (R71, R72). -/
theorem encodeA_fields {w : Word} {op : Nibble} (hop : (fieldOp w).toNat = op.toNat) : encodeA op (fieldNnn w) = w := by
  apply BitVec.eq_of_toNat_eq
  rw [encodeA_toNat, fieldNnn_toNat, ← hop, fieldOp_toNat]
  omega

/-- A word of format XK is put together again from its fields (R71, R72). -/
theorem encodeXK_fields {w : Word} {op : Nibble} (hop : (fieldOp w).toNat = op.toNat) :
    encodeXK op (fieldX w) (fieldKk w) = w := by
  apply BitVec.eq_of_toNat_eq
  rw [encodeXK_toNat, fieldX_toNat, fieldKk_toNat, ← hop, fieldOp_toNat]
  omega

/-- A word of format XYN is put together again from its fields (R71, R72). -/
theorem encodeXYN_fields {w : Word} {op : Nibble} (hop : (fieldOp w).toNat = op.toNat) :
    encodeXYN op (fieldX w) (fieldY w) (fieldN w) = w := by
  apply BitVec.eq_of_toNat_eq
  rw [encodeXYN_toNat, fieldX_toNat, fieldY_toNat, fieldN_toNat, ← hop, fieldOp_toNat]
  omega

/-- A word of format X, whose low byte is fixed, is put together again from the field `x` (R72). -/
theorem encodeX_fields {w : Word} {op : Nibble} {kk : Byte} (hop : (fieldOp w).toNat = op.toNat)
    (hkk : (fieldKk w).toNat = kk.toNat) : encodeXK op (fieldX w) kk = w := by
  rw [← BitVec.eq_of_toNat_eq hkk, encodeXK_fields hop]

/-- A word of format XY, whose low nibble is fixed, is put together again from the fields `x` and `y` (R72). -/
theorem encodeXY_fields {w : Word} {op n : Nibble} (hop : (fieldOp w).toNat = op.toNat)
    (hn : (fieldN w).toNat = n.toNat) : encodeXYN op (fieldX w) (fieldY w) n = w := by
  rw [← BitVec.eq_of_toNat_eq hn, encodeXYN_fields hop]

/-- What family 0x0 decodes to encodes to the word (R74, R78). -/
theorem encode_decodeZero {w : Word} (hop : (fieldOp w).toNat = 0x0) :
    encode (decodeZero w) = w ∧ (decodeZero w).wellFormed = true := by
  have hword : encodeA 0x0 (fieldNnn w) = w := encodeA_fields hop
  unfold decodeZero
  split
  · next hcls => exact ⟨hcls.symm, rfl⟩
  split
  · next hret => exact ⟨hret.symm, rfl⟩
  · next hcls hret =>
    refine ⟨hword, ?_⟩
    have hne : fieldNnn w ≠ 0x0E0#12 ∧ fieldNnn w ≠ 0x0EE#12 :=
      ⟨fun he => hcls (by rw [← hword, he]; rfl), fun he => hret (by rw [← hword, he]; rfl)⟩
    simpa [Instr.wellFormed, Instr.sysOperandOk] using hne

/-- What family 0x8 decodes to encodes to the word (R74). -/
theorem encode_of_decodeArithmetic {w : Word} {i : Instr} (hop : (fieldOp w).toNat = 0x8)
    (h : decodeArithmetic w = .ok i) : encode i = w ∧ i.wellFormed = true := by
  unfold decodeArithmetic at h
  split at h <;> cases h <;> exact ⟨encodeXY_fields hop ‹_›, rfl⟩

/-- What family 0xE decodes to encodes to the word (R74). -/
theorem encode_of_decodeKey {w : Word} {i : Instr} (hop : (fieldOp w).toNat = 0xE)
    (h : decodeKey w = .ok i) : encode i = w ∧ i.wellFormed = true := by
  unfold decodeKey at h
  split at h <;> cases h <;> exact ⟨encodeX_fields hop ‹_›, rfl⟩

/-- What family 0xF decodes to encodes to the word (R74). -/
theorem encode_of_decodeMisc {w : Word} {i : Instr} (hop : (fieldOp w).toNat = 0xF)
    (h : decodeMisc w = .ok i) : encode i = w ∧ i.wellFormed = true := by
  unfold decodeMisc at h
  split at h <;> cases h <;> exact ⟨encodeX_fields hop ‹_›, rfl⟩

/-- Settles O3, family by family: the branch of R74 that was taken fixes the high nibble, and the operands are the other fields. -/
theorem encodeOfDecode : Obligations.EncodeOfDecode := by
  unfold Obligations.EncodeOfDecode
  intro w i h
  unfold decodeWord at h
  split at h
  case h_1 hop => cases h; exact encode_decodeZero hop
  case h_2 hop | h_3 hop | h_11 hop | h_12 hop => cases h; exact ⟨encodeA_fields hop, rfl⟩
  case h_4 hop | h_5 hop | h_7 hop | h_8 hop | h_13 hop => cases h; exact ⟨encodeXK_fields hop, rfl⟩
  case h_6 hop | h_14 hop => cases h; exact ⟨encodeXYN_fields hop, rfl⟩
  case h_9 hop => exact encode_of_decodeArithmetic hop h
  case h_10 hop =>
    split at h
    · next hn => cases h; exact ⟨encodeXY_fields hop (congrArg BitVec.toNat hn), rfl⟩
    · cases h
  case h_15 hop => exact encode_of_decodeKey hop h
  case h_16 =>
    have hlt := (fieldOp w).isLt
    simp only [imp_false] at *
    exact encode_of_decodeMisc (by omega) h

/-- The words of family 0x8 that decode to nothing (R76). -/
theorem decodeArithmetic_error_iff (w : Word) :
    (∃ r, decodeArithmetic w = .error r) ↔ w.toNat % 16 ∈ [0x8, 0x9, 0xA, 0xB, 0xC, 0xD, 0xF] := by
  rw [decodeArithmetic, fieldN_toNat]
  have hlt : w.toNat % 16 < 16 := Nat.mod_lt _ (by decide)
  generalize w.toNat % 16 = n at hlt
  split
  case h_10 =>
    refine iff_of_true ⟨_, rfl⟩ ?_
    simp only [imp_false] at *
    simp only [List.mem_cons, List.not_mem_nil, or_false]
    omega
  all_goals simp

/-- The words of family 0xE that decode to nothing (R76). -/
theorem decodeKey_error_iff (w : Word) : (∃ r, decodeKey w = .error r) ↔ w.toNat % 256 ∉ [0x9E, 0xA1] := by
  rw [decodeKey, fieldKk_toNat]
  split
  case h_3 =>
    refine iff_of_true ⟨_, rfl⟩ ?_
    simp only [imp_false] at *
    simp only [List.mem_cons, List.not_mem_nil, or_false]
    omega
  all_goals simp [*]

/-- The words of family 0xF that decode to nothing (R76). -/
theorem decodeMisc_error_iff (w : Word) : (∃ r, decodeMisc w = .error r) ↔
    w.toNat % 256 ∉ [0x07, 0x0A, 0x15, 0x18, 0x1E, 0x29, 0x33, 0x55, 0x65] := by
  rw [decodeMisc, fieldKk_toNat]
  split
  case h_10 =>
    refine iff_of_true ⟨_, rfl⟩ ?_
    simp only [imp_false] at *
    simp only [List.mem_cons, List.not_mem_nil, or_false]
    omega
  all_goals simp [*]

/-- The words of family 0x9 that decode to nothing (R76). -/
theorem decodeSkip_error_iff (w : Word) (i : Instr) :
    (∃ r, (if fieldN w = 0x0#4 then Except.ok i else .error DecodeReject.unknownSkip) = .error r) ↔ w.toNat % 16 ≠ 0 := by
  have hzero : fieldN w = 0x0#4 ↔ w.toNat % 16 = 0 := by rw [← BitVec.toNat_inj, fieldN_toNat]; rfl
  rw [ne_eq, ← hzero]
  by_cases hn : fieldN w = 0x0#4 <;> simp [hn]

/-- Settles O4: only families 0x8, 0x9, 0xE and 0xF reject words, and each of them those of its row of R76. -/
theorem unknownWordsExactly : Obligations.UnknownWordsExactly := by
  unfold Obligations.UnknownWordsExactly
  intro w
  have hw := w.isLt
  unfold decodeWord
  rw [fieldOp_toNat]
  split
  case h_9 hop => rw [decodeArithmetic_error_iff]; simp [hop]
  case h_10 hop => rw [decodeSkip_error_iff]; simp [hop]
  case h_15 hop => rw [decodeKey_error_iff]; simp [hop]
  case h_16 =>
    simp only [imp_false] at *
    have hop : w.toNat / 4096 = 0xF := by omega
    rw [decodeMisc_error_iff]; simp [hop]
  all_goals simp [*]

end Sys2Proof
end

section
/-!
PROOFS of the storage layer (20_memory.md): the two laws of bitfields (R45), the bound of an access (R53) and slices (R54).
-/

namespace Sys2Proof.Machine

/-- A field read after a write is the value cut to the field (R45). -/
theorem readField_writeField {w : Nat} (old value : BitVec w) {start length : Nat} (hw : start + length ≤ w) :
    readField (writeField old start length value) start length = value &&& fieldMask w length := by
  refine BitVec.eq_of_getLsbD_eq fun k _ => ?_
  rw [getLsbD_readField, getLsbD_and_fieldMask]
  by_cases hk : k < length
  · rw [getLsbD_writeField_inside old value hw (by omega) (by omega), Nat.add_sub_cancel_left]
  · simp [hk]

/-- Writing back the field that was read changes nothing (R45). -/
theorem writeField_readField {w : Nat} (old : BitVec w) {start length : Nat} (hw : start + length ≤ w) :
    writeField old start length (readField old start length) = old := by
  refine BitVec.eq_of_getLsbD_eq fun k _ => ?_
  by_cases hin : start ≤ k ∧ k < start + length
  · obtain ⟨hstart, hend⟩ := hin
    rw [getLsbD_writeField_inside old _ hw hstart hend, getLsbD_readField, Nat.add_sub_cancel' hstart]
    simp [show k - start < length by omega]
  · exact getLsbD_writeField_outside old _ hin

/-- Settles O6, one law at a time, each bit by bit. -/
theorem bitfieldRoundTrip : Obligations.BitfieldRoundTrip := by
  unfold Obligations.BitfieldRoundTrip
  intro w old value start length hw
  exact ⟨readField_writeField old value hw, writeField_readField old hw⟩

/-- Settles O8: each access does what its law says on either side of the bound. -/
theorem outOfRangeFaults : Obligations.OutOfRangeFaults := by
  unfold Obligations.OutOfRangeFaults
  intro m a b w
  refine ⟨?_, ?_, ?_, ?_⟩
  · rcases Memory.read8_cases m a with ⟨ha, he⟩ | ⟨ha, he⟩
    · rw [he, if_neg (by omega)]
    · rw [he, if_pos ha]
  · rcases Memory.write8_cases m a b with ⟨ha, he⟩ | ⟨ha, he⟩
    · rw [he, if_neg (by omega)]
    · rw [he, if_pos ha]
  · rcases Memory.read16_cases m a with ⟨ha, he⟩ | ⟨ha, he⟩
    · rw [he, if_neg (by omega)]
      rfl
    · rw [he, if_pos (by omega)]
  · rcases Memory.write16_cases m a w with ⟨ha, he⟩ | ⟨ha, he⟩
    · rw [he, if_neg (by omega)]
      rfl
    · rw [he, if_pos (by omega)]

/-- A slice read that reaches past the end of `MEM` is refused with its address and count (R53, R54). -/
theorem Memory.readSlice_error {count : Nat} (m : Memory) {a : Nat} (h : 4096 < a + count) :
    Memory.readSlice m a count = .error (.outOfBounds a count) :=
  if_neg fun hr => by have := (inRange_iff a count).mp hr; omega

/-- A slice write that reaches past the end of `MEM` is refused with its address and length (R53, R54). -/
theorem Memory.writeSlice_error {bs : List Byte} (m : Memory) {a : Nat} (h : 4096 < a + bs.length) :
    Memory.writeSlice m a bs = .error (.outOfBounds a bs.length) :=
  if_neg fun hr => by have := (inRange_iff a bs.length).mp hr; omega

/-- Settles O57: inside `MEM` the two slice laws say what each byte is; outside, both refuse. -/
theorem slicesInOrder : Obligations.SlicesInOrder := by
  unfold Obligations.SlicesInOrder
  intro m a count values hm
  refine ⟨fun h => ?_, Memory.readSlice_error m, fun h => ?_, Memory.writeSlice_error m⟩
  · exact ⟨_, Memory.readSlice_ok m h, by simp, fun k hk => by simp [hk]⟩
  · obtain ⟨m', hwrite⟩ := Memory.writeSlice_fits m h
    obtain ⟨hwf, -, hget⟩ := Memory.writeSlice_ok hm hwrite
    refine ⟨m', hwrite, hwf, fun k v hv => ?_, fun b hb => ?_⟩
    · obtain ⟨hk, -⟩ := List.getElem?_eq_some_iff.mp hv
      rw [hget, if_pos (by omega), Nat.add_sub_cancel_left, List.getD_eq_getElem?_getD, hv, Option.getD_some]
    · rw [hget, if_neg (by omega)]

end Sys2Proof.Machine
end

section
/-!
PROOFS of the cycle (40_cpu_cycle.md R90 to R95) and of phase 2 (46_clock_and_events.md R179 to R183, 60_exceptions.md R212 to R222):
who moves next, and what the controller that moves does.
-/

namespace Sys2Proof.Machine

/-- A fetch inside `MEM` answers the two bytes at `PC` (R90). -/
theorem State.fetch_ok {s : State} (h : s.pc.toNat ≤ 4094) :
    s.fetch = .ok (s.byteAt s.pc.toNat ++ s.byteAt (s.pc.toNat + 1)) := Memory.read16_ok h

/-- A fetch outside `MEM` is refused (R95). -/
theorem State.fetch_error {s : State} (h : 4095 ≤ s.pc.toNat) : s.fetch = .error (.outOfBounds s.pc.toNat 2) := by
  rcases Memory.read16_cases s.mem s.pc.toNat with ⟨hle, -⟩ | ⟨-, he⟩
  · omega
  · exact he

/-- A cycle whose fetch fails raises the fault before `PC` moves (R95). -/
theorem cpuCycle_of_fetch_error {s : State} {f : Fault} (h : s.fetch = .error f) : cpuCycle s = raise f s := by
  rw [cpuCycle, h]

/-- A cycle whose fetch succeeds runs the word with `PC` past it (R90). -/
theorem cpuCycle_of_fetch_ok {s : State} {w : Word} (h : s.fetch = .ok w) :
    cpuCycle s = runWord w s.pc (s.setPc (s.pc + 2)) := by
  rw [cpuCycle, h]

/-- A word that decodes to nothing raises `FatalDecode` (R90, R201). -/
theorem runWord_of_error {w : Word} {r : DecodeReject} (h : decodeWord w = .error r) (pcFetch : Word) (s : State) :
    runWord w pcFetch s = raise (.fatalDecode w pcFetch) s := by
  rw [runWord, h]

/-- A word that decodes is executed (R90). -/
theorem runWord_of_ok {w : Word} {i : Instr} (h : decodeWord w = .ok i) (pcFetch : Word) (s : State) :
    runWord w pcFetch s = exec i s := by
  rw [runWord, h]

/-- Settles O9: the fetch decides on which side of the bound `PC` is, and the decode whether there is an instruction. -/
theorem cycleFetchDecodeExecute : Obligations.CycleFetchDecodeExecute := by
  unfold Obligations.CycleFetchDecodeExecute
  intro s
  refine ⟨fun hout => cpuCycle_of_fetch_error (State.fetch_error hout), fun hin w hw => ?_⟩
  have hcycle := cpuCycle_of_fetch_ok ((State.fetch_ok hin).trans (congrArg _ hw.symm))
  exact ⟨fun r hr => hcycle.trans (runWord_of_error hr _ _), fun i hi => hcycle.trans (runWord_of_ok hi _ _)⟩

/-- Inside a frame a step is one of the controller that is picked (R222). -/
theorem step_of_pick {s u : State} {c : Ctrl} (hphase : s.phase = .dispatch) (hpick : pickController s = some (c, u)) :
    step s = controllerStep c u := by
  rw [step, hphase]
  show dispatchStep s = _
  rw [dispatchStep, hpick]

/-- When no controller is picked the frame ends (R182). -/
theorem step_of_pick_none {s : State} (hphase : s.phase = .dispatch) (hpick : pickController s = none) :
    step s = .next (finishFrame s) := by
  rw [step, hphase]
  show dispatchStep s = _
  rw [dispatchStep, hpick]

/-- The CPU controller with an iteration left runs a cycle (R180). -/
theorem cpuStep_of_left {s : State} {n : Nat} (h : s.leftCpu = n + 1) : cpuStep s = cpuCycle { s with leftCpu := n } := by
  rw [cpuStep, h]
  rfl

/-- The CPU controller between two events takes a `Tick` from the head of `Q_CPU` (R179, R180). -/
theorem cpuStep_of_tick {s : State} {n : Nat} {q : List Event} (hleft : s.leftCpu = 0) (hq : s.qCpu = .tick n :: q) :
    cpuStep s = .next { s with qCpu := q, leftCpu := n } := by
  rw [cpuStep, hleft, hq]
  rfl

/-- The Sound controller with an iteration left performs a tick (R180, R217). -/
theorem soundStep_of_left {s : State} {n : Nat} (h : s.leftSound = n + 1) :
    soundStep s = .next (soundTick { s with leftSound := n }) := by
  rw [soundStep, h]
  rfl

/-- The Sound controller between two events takes a `Tick` from the head of its queue (R179, R180). -/
theorem soundStep_of_tick {s : State} {n : Nat} {q : List Nat} (hleft : s.leftSound = 0) (hq : s.qSound = n :: q) :
    soundStep s = .next { s with qSound := q, leftSound := n } := by
  rw [soundStep, hleft, hq]
  rfl

/-- The Timer controller with an iteration left performs a tick (R180, R216). -/
theorem timerStep_of_left {s : State} {n : Nat} (h : s.leftTimer = n + 1) :
    timerStep s = .next (timerTick { s with leftTimer := n }) := by
  rw [timerStep, h]
  rfl

/-- The Timer controller between two events takes a `Tick` from the head of its queue (R179, R180). -/
theorem timerStep_of_tick {s : State} {n : Nat} {q : List Nat} (hleft : s.leftTimer = 0) (hq : s.qTimer = n :: q) :
    timerStep s = .next { s with qTimer := q, leftTimer := n } := by
  rw [timerStep, hleft, hq]
  rfl

/-- Settles O10: the step is the CPU's, its iteration a cycle, and the cycle runs the word at `PC`. -/
theorem stepRunsDecoded : Obligations.StepRunsDecoded := by
  unfold Obligations.StepRunsDecoded
  intro s s1 n i hphase hpick hleft hpc hdecode
  calc step s = cpuStep s1 := step_of_pick hphase hpick
    _ = cpuCycle { s1 with leftCpu := n } := cpuStep_of_left hleft
    _ = runWord _ s1.pc { s1 with pc := s1.pc + 2, leftCpu := n } :=
      cpuCycle_of_fetch_ok (s := { s1 with leftCpu := n }) (State.fetch_ok hpc)
    _ = exec i { s1 with pc := s1.pc + 2, leftCpu := n } := runWord_of_ok hdecode _ _

/-- Settles O59: each clause is the law of the picked controller's step, an iteration or an event. -/
theorem stepDrainsQueues : Obligations.StepDrainsQueues := by
  unfold Obligations.StepDrainsQueues
  intro s u hphase
  refine ⟨fun hpick => ?_, fun hpick => ?_, fun hpick => ?_⟩
  · have hstep : step s = timerStep u := step_of_pick hphase hpick
    exact ⟨fun n hn => hstep.trans (timerStep_of_left hn), fun n q h0 hq => hstep.trans (timerStep_of_tick h0 hq)⟩
  · have hstep : step s = soundStep u := step_of_pick hphase hpick
    exact ⟨fun n hn => hstep.trans (soundStep_of_left hn), fun n q h0 hq => hstep.trans (soundStep_of_tick h0 hq)⟩
  · have hstep : step s = cpuStep u := step_of_pick hphase hpick
    exact ⟨fun n hn => hstep.trans (cpuStep_of_left hn), fun n q h0 hq => hstep.trans (cpuStep_of_tick h0 hq),
      fun key pressed q h0 hq => hstep.trans (cpuStep_of_input h0 hq)⟩

/-- The CPU has work while the block runs and a cycle or an event is left (R179, R206). -/
theorem State.hasWork_cpu_iff (s : State) :
    s.hasWork .cpu = true ↔ s.status = .running ∧ (s.leftCpu ≠ 0 ∨ s.qCpu ≠ []) := by
  simp [State.hasWork, State.left, State.queueLength]

/-- Sound has work while no fault has ended the frame and a tick or an event is left (R179, R212). -/
theorem State.hasWork_sound_iff (s : State) :
    s.hasWork .sound = true ↔ s.aborted = false ∧ (s.leftSound ≠ 0 ∨ s.qSound ≠ []) := by
  simp [State.hasWork, State.left, State.queueLength]

/-- Timer has work while no fault has ended the frame and a tick or an event is left (R179, R212). -/
theorem State.hasWork_timer_iff (s : State) :
    s.hasWork .timer = true ↔ s.aborted = false ∧ (s.leftTimer ≠ 0 ∨ s.qTimer ≠ []) := by
  simp [State.hasWork, State.left, State.queueLength]

/-- A fault ends a frame of sequential dispatch, and nothing else does (R206, R212). -/
theorem State.aborted_eq_false_iff (s : State) :
    s.aborted = false ↔ s.dispatchMode = .concurrent ∨ ∀ f, s.status ≠ .faulted f := by
  unfold State.aborted
  cases s.status <;> cases s.dispatchMode <;> simp

/-- In sequential dispatch the first controller with work moves, in the order CPU, Sound, Timer, and no free value is taken (R183). -/
theorem pickController_sequential {s : State} (h : s.dispatchMode = .sequential) :
    pickController s = ([Ctrl.cpu, .sound, .timer].find? s.hasWork).map fun c => (c, s) := by
  rw [← List.head?_filter, pickController, h, ← State.runnable]
  cases s.runnable <;> rfl

/-- In concurrent dispatch the choice takes one free value (R222). -/
theorem pickController_concurrent {s t : State} {c : Ctrl} (h : s.dispatchMode = .concurrent)
    (hpick : pickController s = some (c, t)) : t = s.countDraw := by
  rw [pickController, h] at hpick
  cases hr : s.runnable with
  | nil => rw [hr] at hpick; cases hpick
  | cons d ds => rw [hr] at hpick; exact (Prod.mk.inj (Option.some.inj hpick)).2.symm

/-- Nobody is picked exactly when nobody has work (R182). -/
theorem pickController_eq_none_iff (s : State) : pickController s = none ↔ ∀ c, s.hasWork c = false := by
  rcases pickController_cases s with ⟨hnone, hidle⟩ | ⟨c, t, hsome, hwork, -⟩
  · exact iff_of_true hnone hidle
  · refine iff_of_false (by rw [hsome]; exact Option.some_ne_none _) fun hidle => ?_
    rw [hidle c] at hwork
    cases hwork

/-- Who is picked has work (R222). -/
theorem hasWork_of_pick {s t : State} {c : Ctrl} (h : pickController s = some (c, t)) : s.hasWork c = true := by
  rcases pickController_cases s with ⟨hnone, -⟩ | ⟨d, u, hsome, hwork, -⟩
  · rw [hnone] at h; cases h
  · rw [hsome] at h; cases h; exact hwork

/-- Sequential dispatch of a running block: the CPU, then Sound, then Timer, then nobody (R183). -/
theorem pickController_sequential_running {s : State} (hseq : s.dispatchMode = .sequential) (hrun : s.status = .running) :
    ((s.leftCpu ≠ 0 ∨ s.qCpu ≠ []) → pickController s = some (.cpu, s)) ∧
    (s.leftCpu = 0 → s.qCpu = [] → (s.leftSound ≠ 0 ∨ s.qSound ≠ []) → pickController s = some (.sound, s)) ∧
    (s.leftCpu = 0 → s.qCpu = [] → s.leftSound = 0 → s.qSound = [] → (s.leftTimer ≠ 0 ∨ s.qTimer ≠ []) →
      pickController s = some (.timer, s)) ∧
    (s.leftCpu = 0 → s.qCpu = [] → s.leftSound = 0 → s.qSound = [] → s.leftTimer = 0 → s.qTimer = [] →
      pickController s = none) := by
  have hgoes : s.aborted = false := s.aborted_eq_false_iff.mpr (.inr (by simp [hrun]))
  have hcpu : s.leftCpu = 0 → s.qCpu = [] → s.hasWork .cpu = false := fun hl hq => by
    rw [← Bool.not_eq_true, s.hasWork_cpu_iff]
    simp [hl, hq]
  have hsound : s.leftSound = 0 → s.qSound = [] → s.hasWork .sound = false := fun hl hq => by
    rw [← Bool.not_eq_true, s.hasWork_sound_iff]
    simp [hl, hq]
  have htimer : s.leftTimer = 0 → s.qTimer = [] → s.hasWork .timer = false := fun hl hq => by
    rw [← Bool.not_eq_true, s.hasWork_timer_iff]
    simp [hl, hq]
  rw [pickController_sequential hseq]
  refine ⟨fun h => ?_, fun hl hq h => ?_, fun hl hq hl' hq' h => ?_, fun hl hq hl' hq' hl'' hq'' => ?_⟩
  · simp [s.hasWork_cpu_iff.mpr ⟨hrun, h⟩]
  · simp [hcpu hl hq, s.hasWork_sound_iff.mpr ⟨hgoes, h⟩]
  · simp [hcpu hl hq, hsound hl' hq', s.hasWork_timer_iff.mpr ⟨hgoes, h⟩]
  · simp [hcpu hl hq, hsound hl' hq', htimer hl'' hq'']

/-- A fault in sequential dispatch leaves no controller to move (R212). -/
theorem pickController_sequential_faulted {s : State} {f : Fault} (hseq : s.dispatchMode = .sequential)
    (hfault : s.status = .faulted f) : pickController s = none := by
  have hends : s.aborted = true := by
    rw [← Bool.not_eq_false, s.aborted_eq_false_iff]
    simp [hseq, hfault]
  rw [pickController_eq_none_iff]
  intro c
  cases c <;> simp [State.hasWork, hends, hfault]

/-- Settles O11: sequential dispatch searches the controllers in order, concurrent dispatch answers one with work, and a fault in sequential
dispatch leaves none. -/
theorem sequentialOrder : Obligations.SequentialOrder := by
  unfold Obligations.SequentialOrder
  intro s
  refine ⟨pickController_sequential_running, fun hconc => ?_, fun f => pickController_sequential_faulted⟩
  have hgoes : s.aborted = false := s.aborted_eq_false_iff.mpr (.inl hconc)
  have hsound := s.hasWork_sound_iff
  have htimer := s.hasWork_timer_iff
  simp only [hgoes, true_and] at hsound htimer
  refine ⟨?_, fun c t hpick => ⟨pickController_concurrent hconc hpick, ?_, ?_, ?_⟩⟩
  · rw [pickController_eq_none_iff, ← s.hasWork_cpu_iff, ← hsound, ← htimer]
    simp only [Bool.not_eq_true]
    exact ⟨fun h => ⟨h .cpu, h .sound, h .timer⟩, fun ⟨hc, hs, ht⟩ c => by cases c <;> assumption⟩
  · rintro rfl
    exact s.hasWork_cpu_iff.mp (hasWork_of_pick hpick)
  · rintro rfl
    exact hsound.mp (hasWork_of_pick hpick)
  · rintro rfl
    exact htimer.mp (hasWork_of_pick hpick)

end Sys2Proof.Machine
end

section
/-!
PROOFS about the instructions of 41_flow.md (`sys`, `ret`, the matching pair of `call` and `ret`), 42_alu.md (`rand`), 43_index_memory.md
(`load` after `save`) and 45_keypad_timers.md (`keyr`, the delay timer, the ticks of the two counters).
-/

namespace Sys2Proof.Machine

/-- The word of a `sys` is its operand, zero extended (R101). -/
theorem encode_sys (nnn : Addr) : encode (.sys nnn) = BitVec.ofNat 16 nnn.toNat := by
  have hlt := nnn.isLt
  apply BitVec.eq_of_toNat_eq
  rw [encode, encodeA_toNat, BitVec.toNat_ofNat, show (0x0 : Nibble).toNat = 0 from rfl]
  omega

/-- `exec` on `sys` (R101). -/
theorem exec_sys (nnn : Addr) (s : State) :
    exec (.sys nnn) s = raise (.fatalDecode (encode (.sys nnn)) s.pcFetch) s := rfl

/-- Settles O12: `sys` raises the fault of an unknown word, with its own. -/
theorem sysIsFatal : Obligations.SysIsFatal := by
  unfold Obligations.SysIsFatal
  intro nnn s
  rw [exec_sys, encode_sys]
  rfl

/-- `ret` when the stack is not empty (R102). -/
theorem exec_ret_of_pop_some {s s' : State} {p : Word} (h : s.pop = some (p, s')) :
    exec .ret s = .next (s'.setPc p) := by
  show execRet s = _
  rw [execRet, h]

/-- `ret` when the stack is empty (R102, R202). -/
theorem exec_ret_of_pop_none {s : State} (h : s.pop = none) : exec .ret s = raise (.stackUnderflow s.pcFetch) s := by
  show execRet s = _
  rw [execRet, h]

/-- `ret` with `k + 1` entries in use goes to entry `k` and leaves `k` in use (R102). -/
theorem exec_ret_of_sp {s : State} {k : Fin 16} (hsp : s.sp.val = k.val + 1) :
    ∃ t, exec .ret s = .next t ∧ t = { s with pc := t.pc, sp := t.sp } ∧ t.pc = s.stack.get k ∧ t.sp.val = k.val := by
  rcases State.pop_cases s with ⟨h0, -⟩ | ⟨j, s', hj, hpop, hframe, hsp'⟩
  · omega
  · obtain rfl : j = k := Fin.ext (by omega)
    refine ⟨_, exec_ret_of_pop_some hpop, ?_, rfl, hsp'⟩
    rw [hframe]
    rfl

/-- Settles O15, by what a pop can do. -/
theorem retPops : Obligations.RetPops := by
  unfold Obligations.RetPops
  intro s
  refine ⟨fun k => exec_ret_of_sp, fun h0 => ?_⟩
  rcases State.pop_cases s with ⟨-, hpop⟩ | ⟨k, s', hk, -⟩
  · exact exec_ret_of_pop_none hpop
  · omega

/-- Settles O16: the `call` leaves its return address in the entry at the old `SP`, which the `ret` pops. -/
theorem returnAfterCall : Obligations.ReturnAfterCall := by
  unfold Obligations.ReturnAfterCall
  intro nnn s t u hroom hcall hsp hstack
  obtain ⟨t', hcall', -, -, hspt, hentries⟩ := (callPushes nnn s).1 hroom
  obtain rfl : t = t' := Host.Outcome.next.inj (hcall.symm.trans hcall')
  have hspu : u.sp.val = s.sp.val + 1 := by rw [hsp, hspt]
  obtain ⟨r, hret, -, hpc, hspr⟩ := exec_ret_of_sp (k := ⟨s.sp.val, hroom⟩) hspu
  refine ⟨r, hret, ?_, Fin.ext hspr⟩
  rw [hpc, hstack _ (by rw [hspu]; exact Nat.lt_succ_self _), hentries, if_pos rfl]

/-- `exec` on `rand` (R133). -/
theorem exec_rand (x : Nibble) (kk : Byte) (s : State) :
    exec (.rand x kk) s = .next (s.setReg x (Config.draw8 s.draws &&& kk)).countDraw := rfl

/-- Settles O23: `rand` is one write of `Vx`, and a bit of an AND is a bit of both. -/
theorem randMasksFreeByte : Obligations.RandMasksFreeByte := by
  unfold Obligations.RandMasksFreeByte
  intro x kk s
  have hx : (s.setReg x (Config.draw8 s.draws &&& kk)).countDraw.reg x = Config.draw8 s.draws &&& kk :=
    State.reg_setReg_same s x _
  refine ⟨_, _, exec_rand x kk s, rfl, rfl, hx, fun k hk => ?_, fun j hj => State.reg_setReg_ne s _ hj⟩
  rw [hx, BitVec.getLsbD_and, Bool.and_eq_true] at hk
  exact hk.2

/-- Settles O28: register `j` goes to the byte at `I + j`, from where it comes back. -/
theorem loadAfterSave : Obligations.LoadAfterSave := by
  unfold Obligations.LoadAfterSave
  intro x s t u hwf hfit hsave hmem hi
  obtain ⟨m, hsave', hstored, -⟩ := exec_save_fits (x := x) hwf hfit
  obtain rfl := Host.Outcome.next.inj (hsave.symm.trans hsave')
  obtain ⟨r, hload, -, hri, hregs⟩ := exec_load_fits (x := x) (s := u) (by rw [hi]; exact hfit)
  refine ⟨r, hload, BitVec.eq_of_toNat_eq ?_, fun j hj => ?_⟩
  · rw [hri, hi, State.setI_i, add_ofNat_toNat_of_le (by omega), Nat.add_assoc]
  · rw [hregs, if_pos hj, State.byteAt, hmem, hi]
    exact hstored j hj

/-- `keyr` with no key recorded halts and goes back to its own address (R164). -/
theorem exec_keyr_of_none {s : State} (h : s.wake = none) (x : Nibble) :
    exec (.keyr x) s = .next { s with halt := true, pc := s.pc - 2 } := by
  have hwait : execKeyr x s = .next ((s.setHalt true).setPc (s.pc - 2)) := by rw [execKeyr, h]
  exact hwait

/-- `keyr` with a key recorded takes it (R164). -/
theorem exec_keyr_of_some {s : State} {k : Fin 16} (h : s.wake = some k) (x : Nibble) :
    exec (.keyr x) s = .next ((s.setReg x (BitVec.ofNat 8 k.val)).setWake none) := by
  show execKeyr x s = _
  rw [execKeyr, h]

/-- A key's number as a byte is the key's number (R164). -/
theorem ofNat_key_toNat (k : Fin 16) : (BitVec.ofNat 8 k.val).toNat = k.val :=
  Nat.mod_eq_of_lt (Nat.lt_trans k.isLt (by decide))

/-- What `keyr` does with a recorded key (R164). -/
theorem exec_keyr_takes {s : State} {k : Fin 16} (h : s.wake = some k) (x : Nibble) :
    ∃ t, exec (.keyr x) s = .next t ∧ t = { s with v := t.v, wake := none } ∧ (t.reg x).toNat = k.val ∧
      ∀ j, j ≠ x → t.reg j = s.reg j := by
  refine ⟨_, exec_keyr_of_some h x, rfl, ?_, fun j hj => State.reg_setReg_ne s _ hj⟩
  rw [State.setWake_reg, State.reg_setReg_same, ofNat_key_toNat]

/-- Settles O34, by whether a key is recorded. -/
theorem keyrWaitsOrConsumes : Obligations.KeyrWaitsOrConsumes := by
  unfold Obligations.KeyrWaitsOrConsumes
  exact fun x s => ⟨fun h => exec_keyr_of_none h x, fun k h => exec_keyr_takes h x⟩

/-- Settles O36: the waiting `keyr` has halted, so the press is recorded and clears `HALT`; the next `keyr` takes it. -/
theorem keyrTakesNextPress : Obligations.KeyrTakesNextPress := by
  unfold Obligations.KeyrTakesNextPress
  intro x key s t hwake hwait
  obtain rfl := Host.Outcome.next.inj (hwait.symm.trans (exec_keyr_of_none hwake x))
  rw [inputEvent_frame]
  obtain ⟨r, hexec, hframe, hx, -⟩ := exec_keyr_takes (k := key) (x := x)
    (s := { s with keypad := writeField s.keypad key.val 1 1, halt := false, wake := some key, pc := s.pc - 2 + 2 }) rfl
  refine ⟨r, hexec, hx, by rw [hframe], by rw [hframe], ?_⟩
  rw [hframe]
  exact BitVec.sub_add_cancel s.pc 2

/-- `exec` on `timerr` (R166). -/
theorem exec_timerr (x : Nibble) (s : State) : exec (.timerr x) s = .next (s.setReg x s.dt) := rfl

/-- `exec` on `timerw` (R167). -/
theorem exec_timerw (x : Nibble) (s : State) : exec (.timerw x) s = .next (s.setDt (s.reg x)) := rfl

/-- Settles O37: one is a write of `Vx`, the other a write of `DT`. -/
theorem delayTimerAccess : Obligations.DelayTimerAccess := by
  unfold Obligations.DelayTimerAccess
  exact fun x s => ⟨⟨_, exec_timerr x s, rfl, fun j => State.reg_setReg s x j s.dt⟩, exec_timerw x s⟩

end Sys2Proof.Machine
end

section
/-!
PROOFS about `draw` (44_display.md R152 to R155): the sprite as a picture, drawn once, drawn twice, and drawn past the end of `MEM`.
-/

namespace Sys2Proof.Machine

/-- The sprite on the screen is the picture of its rows from row 0 on (R150). -/
theorem rowsCover_eq_spriteAt (s : State) (x0 y0 n : Nat) (py : Fin 32) (px : Fin 64) :
    rowsCover s.mem s.i.toNat x0 y0 n 0 py px = spriteAt s x0 y0 n py px := by
  rw [rowsCover, spriteAt, State.byteAt]
  congr 2
  simp only [Nat.zero_le, Nat.zero_add, true_and, and_comm]

/-- A flag byte is 0 or 1 (R120). -/
theorem flagByte_eq_zero_or_one (b : Bool) : flagByte b = 0 ∨ flagByte b = 1 := by cases b <;> decide

/-- A flag byte is 1 when the flag is set (R120). -/
theorem flagByte_eq_one_iff (b : Bool) : flagByte b = 1 ↔ b = true := by cases b <;> decide

/-- What `draw` has written, whether it goes on or faults: the blit in `FB`, and its collision in `VF` (R152, R153). -/
def State.drawn (s : State) (q : Blit) : State := (s.setFb q.fb).setReg 15 (flagByte q.hit)

/-- `draw` when every row is drawn (R153, R155). -/
theorem exec_draw_of_blit {x y n : Nibble} {s : State} {q : Blit}
    (h : blitRows s.mem s.i.toNat (s.reg x).toNat (s.reg y).toNat n.toNat 0 ⟨s.fb, false⟩ = (q, none)) :
    exec (.draw x y n) s = .next ((s.drawn q).pushHost .videoChanged) := by
  show execDraw x y n s = _
  rw [execDraw, effAddr, Nat.add_zero, h]
  rfl

/-- `draw` when a row is out of range (R153). -/
theorem exec_draw_of_blit_fault {x y n : Nibble} {s : State} {q : Blit} {f : Fault}
    (h : blitRows s.mem s.i.toNat (s.reg x).toNat (s.reg y).toNat n.toNat 0 ⟨s.fb, false⟩ = (q, some f)) :
    exec (.draw x y n) s = .next ((s.drawn q).setStatus (.faulted f)) := by
  show execDraw x y n s = _
  rw [execDraw, effAddr, Nat.add_zero, h]
  rfl

/-- The registers after `draw`: the collision in `VF`, the others left alone (R152). -/
theorem State.drawn_registers (s : State) (q : Blit) :
    (∀ j, j ≠ 15 → (s.drawn q).reg j = s.reg j) ∧ ((s.drawn q).reg 15 = 0 ∨ (s.drawn q).reg 15 = 1) ∧
      ((s.drawn q).reg 15 = 1 ↔ q.hit = true) := by
  rw [State.drawn, State.reg_setReg_same]
  exact ⟨fun j hj => State.reg_setReg_ne _ _ hj, flagByte_eq_zero_or_one q.hit, flagByte_eq_one_iff q.hit⟩

/-- Settles O30, by the law of a run of rows that fits. -/
theorem drawXorsSprite : Obligations.DrawXorsSprite := by
  unfold Obligations.DrawXorsSprite
  intro x y n s hfit
  have hn := n.isLt
  have hfit' : n.toNat = 0 ∨ s.i.toNat + 0 + n.toNat ≤ 4096 := hfit.imp (fun h => by rw [h]; rfl) id
  obtain ⟨q, hblit, hpixels, hhit⟩ := blitRows_ok (m := s.mem) (x := (s.reg x).toNat) (y := (s.reg y).toNat)
    (p := ⟨s.fb, false⟩) (row := 0) (by omega) hfit'
  simp only [rowsCover_eq_spriteAt, Bool.false_eq_true, false_or] at hpixels hhit
  obtain ⟨hother, hflag, hflagHit⟩ := s.drawn_registers q
  exact ⟨_, exec_draw_of_blit hblit, rfl, hpixels, hother, hflag, hflagHit.trans hhit⟩

/-- Settles O32, by the law of a run of rows that does not fit. -/
theorem drawFault : Obligations.DrawFault := by
  unfold Obligations.DrawFault
  intro x y n s hn0 hout
  have hn := n.isLt
  have hn0' : n.toNat ≠ 0 := fun h => hn0 (BitVec.eq_of_toNat_eq h)
  obtain ⟨q, hblit, hpixels, hhit⟩ := blitRows_fault (m := s.mem) (x := (s.reg x).toNat) (y := (s.reg y).toNat)
    (p := ⟨s.fb, false⟩) hn0' (by omega) hout
  simp only [rowsCover_eq_spriteAt, Bool.false_eq_true, false_or] at hpixels hhit
  obtain ⟨hother, hflag, hflagHit⟩ := s.drawn_registers q
  exact ⟨_, exec_draw_of_blit_fault hblit, rfl, hpixels, hother, hflag, hflagHit.trans hhit⟩

/-- The picture of a sprite depends on `MEM` and `I` alone (R153). -/
theorem spriteAt_congr {s t : State} (hmem : t.mem = s.mem) (hi : t.i = s.i) (x0 y0 n : Nat) :
    spriteAt t x0 y0 n = spriteAt s x0 y0 n := by
  funext py px
  rw [spriteAt, spriteAt, State.byteAt, State.byteAt, hmem, hi]

/-- Settles O31: after the first drawing the screen is the sprite, so the second meets its set bits and clears them. -/
theorem drawTwiceErases : Obligations.DrawTwiceErases := by
  unfold Obligations.DrawTwiceErases
  intro x y n s t u hx hy hfit hclear hfirst hsecond
  obtain ⟨t', hfirst', hframe, hpixels, hother, hflag, hhit⟩ := drawXorsSprite x y n s hfit
  obtain rfl := Host.Outcome.next.inj (hfirst.symm.trans hfirst')
  have hi : t.i = s.i := by rw [hframe]
  have hmem : t.mem = s.mem := by rw [hframe]
  obtain ⟨u', hsecond', -, hpixels', -, -, hhit'⟩ := drawXorsSprite x y n t (by rw [hi]; exact hfit)
  obtain rfl := Host.Outcome.next.inj (hsecond.symm.trans hsecond')
  rw [hother x hx, hother y hy, spriteAt_congr hmem hi] at hpixels' hhit'
  have hnoHit : t.reg 15 ≠ 1 := fun h1 => by
    obtain ⟨py, px, hset, -⟩ := hhit.mp h1
    rw [hclear] at hset
    cases hset
  refine ⟨fun py px => ?_, hflag.resolve_right hnoHit, ?_⟩
  · rw [hpixels', hpixels, Bool.xor_assoc, Bool.xor_self, Bool.xor_false]
  · simpa only [hpixels, hclear, Bool.false_xor, and_self] using hhit'

end Sys2Proof.Machine
end

section
/-!
PROOFS about the number format, the accumulators and the ticks (46_clock_and_events.md R170 to R182, 60_exceptions.md R216 to R219).
-/

namespace Sys2Proof.Machine

/-- Settles O41: the whole part and the remainder are quotient and remainder, and the remainder is in the format. -/
theorem consumeWholeExact : Obligations.ConsumeWholeExact := by
  unfold Obligations.ConsumeWholeExact
  intro a ha
  exact ⟨Nat.div_add_mod' a.units F64.oneUnits, Nat.mod_lt _ F64.oneUnits_pos, F64.fract_representable ha⟩

/-- A number whose significand `m` fills 53 bits, or has no more than them at the least distance, is at distance `2 ^ j` from its neighbours. -/
theorem F64.quantum_mul_two_pow {m j : Nat} (hm : m < 2 ^ 53) (hj : j = 0 ∨ 2 ^ 52 ≤ m) :
    F64.quantum (m * 2 ^ j) = 2 ^ j := by
  rcases Nat.eq_zero_or_pos j with rfl | hpos
  · rw [Nat.pow_zero, Nat.mul_one, F64.quantum, if_pos hm]
  · have hm' : 2 ^ 52 ≤ m := by omega
    have hlow : 2 ^ (52 + j) ≤ m * 2 ^ j := by
      rw [Nat.pow_add]
      exact Nat.mul_le_mul_right _ hm'
    have hhigh : m * 2 ^ j < 2 ^ (53 + j) := by
      rw [Nat.pow_add]
      exact Nat.mul_lt_mul_of_pos_right hm (Nat.two_pow_pos j)
    have hlog : (m * 2 ^ j).log2 = 52 + j := (Nat.log2_eq_iff (by have := Nat.two_pow_pos (52 + j); omega)).mpr
      ⟨hlow, by rwa [show 52 + j + 1 = 53 + j by omega]⟩
    have hbig : ¬ m * 2 ^ j < 2 ^ 53 := by
      have : 2 ^ 53 ≤ 2 ^ (52 + j) := Nat.pow_le_pow_right (by decide) (by omega)
      omega
    rw [F64.quantum, if_neg hbig, hlog, Nat.add_sub_cancel_left]

/-- Twice the greatest 53-bit significand and one is at the doubled distance. -/
theorem F64.quantum_carry (j : Nat) : F64.quantum (2 ^ 53 * 2 ^ j) = 2 ^ (j + 1) := by
  rw [show 2 ^ 53 * 2 ^ j = 2 ^ 52 * 2 ^ (j + 1) by rw [Nat.pow_succ 2 j]; omega]
  exact F64.quantum_mul_two_pow (by decide) (.inr (Nat.le_refl _))

/-- At every magnitude the distance is a power of two that leaves a significand of 53 bits, or of fewer at the least distance. -/
theorem F64.quantum_spec (k : Nat) :
    ∃ j, F64.quantum k = 2 ^ j ∧ k / 2 ^ j < 2 ^ 53 ∧ (j = 0 ∨ 2 ^ 52 ≤ k / 2 ^ j) := by
  by_cases hk : k < 2 ^ 53
  · exact ⟨0, if_pos hk, by simpa using hk, .inl rfl⟩
  · have hne : k ≠ 0 := by omega
    have hq : F64.quantum k = 2 ^ (k.log2 - 52) := if_neg hk
    have hlog : 53 ≤ k.log2 := (Nat.le_log2 hne).mpr (Nat.le_of_not_lt hk)
    refine ⟨_, hq, hq ▸ F64.div_quantum_lt k, .inr ?_⟩
    rw [Nat.le_div_iff_mul_le (Nat.two_pow_pos _), ← Nat.pow_add, show 52 + (k.log2 - 52) = k.log2 by omega]
    exact Nat.log2_self_le hne

/-- The distance at a greater magnitude is a multiple of the distance at a smaller one. -/
theorem F64.quantum_dvd_quantum {a b : Nat} (h : a ≤ b) : F64.quantum a ∣ F64.quantum b := by
  by_cases ha : a < 2 ^ 53
  · rw [F64.quantum, if_pos ha]
    exact Nat.one_dvd _
  · have hb : ¬ b < 2 ^ 53 := by omega
    rw [F64.quantum, if_neg ha, F64.quantum, if_neg hb]
    have hlog : a.log2 ≤ b.log2 := (Nat.le_log2 (by omega)).mpr (Nat.le_trans (Nat.log2_self_le (by omega)) h)
    exact Nat.pow_dvd_pow 2 (by omega)

/-- No number of the format lies strictly between two neighbours. -/
theorem F64.representable_gap {m j : Nat} (hm : m < 2 ^ 53) (hj : j = 0 ∨ 2 ^ 52 ≤ m) {y : F64} (hy : y.representable) :
    y.units ≤ m * 2 ^ j ∨ (m + 1) * 2 ^ j ≤ y.units := by
  rcases Nat.le_total y.units (m * 2 ^ j) with hle | hge
  · exact .inl hle
  · obtain ⟨d, hd⟩ : 2 ^ j ∣ y.units :=
      F64.quantum_mul_two_pow hm hj ▸ Nat.dvd_trans (F64.quantum_dvd_quantum hge) hy
    rw [hd, Nat.mul_comm _ d]
    rcases Nat.lt_or_ge m d with hlt | hle
    · exact .inr (Nat.mul_le_mul_right _ hlt)
    · exact .inl (Nat.mul_le_mul_right _ hle)

/-- A number with an even significand is a multiple of twice the distance to its neighbour, also where the significand carries over. -/
theorem F64.two_quantum_dvd {m j : Nat} (hm : m ≤ 2 ^ 53) (hj : j = 0 ∨ 2 ^ 52 ≤ m) (heven : m % 2 = 0) :
    2 * F64.quantum (m * 2 ^ j) ∣ m * 2 ^ j := by
  rcases Nat.lt_or_eq_of_le hm with hlt | rfl
  · rw [F64.quantum_mul_two_pow hlt hj]
    exact Nat.mul_dvd_mul_right (Nat.dvd_of_mod_eq_zero heven) _
  · rw [F64.quantum_carry, ← Nat.pow_succ', ← Nat.pow_add]
    exact Nat.pow_dvd_pow 2 (by omega)

/-- What rounding answers: with the distance `2 ^ j` at the quotient's magnitude and `lo` steps of it below, the lower neighbour when the rest is
under half a step or at half with `lo` even, else the upper one (R174). -/
theorem F64.round_cases (num : Nat) {den : Nat} (hden : 0 < den) :
    ∃ j lo rest : Nat, num = lo * 2 ^ j * den + rest ∧ rest < 2 ^ j * den ∧ lo < 2 ^ 53 ∧ (j = 0 ∨ 2 ^ 52 ≤ lo) ∧
      ((F64.round num den = ⟨lo * 2 ^ j⟩ ∧ (2 * rest < 2 ^ j * den ∨ 2 * rest = 2 ^ j * den ∧ lo % 2 = 0)) ∨
        (F64.round num den = ⟨(lo + 1) * 2 ^ j⟩ ∧ (2 ^ j * den < 2 * rest ∨ 2 * rest = 2 ^ j * den ∧ (lo + 1) % 2 = 0))) := by
  obtain ⟨j, hq, hlo, hj⟩ := F64.quantum_spec (num / den)
  rw [Nat.div_div_eq_div_mul] at hlo hj
  have hstep : 0 < den * 2 ^ j := Nat.mul_pos hden (Nat.two_pow_pos j)
  refine ⟨j, num / (den * 2 ^ j), num % (den * 2 ^ j), ?_, ?_, hlo, hj, ?_⟩
  · rw [Nat.mul_assoc, Nat.mul_comm (2 ^ j) den]
    exact (Nat.div_add_mod' num _).symm
  · rw [Nat.mul_comm (2 ^ j) den]
    exact Nat.mod_lt _ hstep
  · rw [Nat.mul_comm (2 ^ j) den, F64.round]
    simp only [hq]
    split
    · next hdown => exact .inl ⟨rfl, hdown⟩
    · next hup => exact .inr ⟨rfl, by omega⟩

/-- Of two neighbours at `lo` and `lo + step`, a point `lo + rest` is no nearer to anything outside them, and what is as near is the other
neighbour at half a step. -/
theorem nearest_of_gap {lo step rest r y : Int} (hrest : 0 ≤ rest) (hlt : rest < step) (hgap : y ≤ lo ∨ lo + step ≤ y)
    (hr : (r = lo ∧ 2 * rest ≤ step) ∨ (r = lo + step ∧ step ≤ 2 * rest)) :
    |r - (lo + rest)| ≤ |y - (lo + rest)| ∧
      (y ≠ r → |y - (lo + rest)| = |r - (lo + rest)| → 2 * rest = step) := by
  rcases abs_cases (r - (lo + rest)) with hr' | hr' <;> rcases abs_cases (y - (lo + rest)) with hy' | hy' <;> omega

/-- Settles O42: the quotient lies between two neighbours of the format, and rounding answers the nearer, at half a step the even one. -/
theorem roundsToNearest : Obligations.RoundsToNearest := by
  unfold Obligations.RoundsToNearest
  intro num den hden
  refine ⟨F64.round_representable num den, fun y hy => ?_⟩
  obtain ⟨j, lo, rest, hnum, hlt, hlo, hj, hround⟩ := F64.round_cases num hden
  generalize F64.round num den = r at hround
  have hgap : y.units * den ≤ lo * 2 ^ j * den ∨ lo * 2 ^ j * den + 2 ^ j * den ≤ y.units * den := by
    rw [← Nat.add_mul, ← Nat.succ_mul]
    exact (F64.representable_gap hlo hj hy).imp (Nat.mul_le_mul_right _) (Nat.mul_le_mul_right _)
  have hr : (r.units * den = lo * 2 ^ j * den ∧ 2 * rest ≤ 2 ^ j * den) ∨
      (r.units * den = lo * 2 ^ j * den + 2 ^ j * den ∧ 2 ^ j * den ≤ 2 * rest) := by
    rcases hround with ⟨rfl, hdown⟩ | ⟨rfl, hup⟩
    · exact .inl ⟨rfl, by omega⟩
    · exact .inr ⟨by rw [← Nat.add_mul, ← Nat.succ_mul], by omega⟩
  have hnear := nearest_of_gap (lo := (lo * 2 ^ j * den : Nat)) (step := (2 ^ j * den : Nat)) (rest := rest)
    (r := (r.units * den : Nat)) (y := (y.units * den : Nat)) (by omega) (by omega) (by omega) (by omega)
  rw [hnum]
  push_cast at hnear ⊢
  obtain ⟨hle, htie⟩ := hnear
  refine ⟨hle, fun hne heq => ?_⟩
  have hne' : (y.units : Int) * den ≠ r.units * den := fun h => hne <| congrArg F64.mk <|
    Nat.eq_of_mul_eq_mul_right hden (by exact_mod_cast h)
  have hhalf : 2 * rest = 2 ^ j * den := by exact_mod_cast htie hne' heq
  rcases hround with ⟨rfl, hdown⟩ | ⟨rfl, hup⟩
  · exact F64.two_quantum_dvd (Nat.le_of_lt hlo) hj (by omega)
  · exact F64.two_quantum_dvd hlo (hj.imp_right fun h => by omega) (by omega)

/-- A product of a whole number of units of 1 with a number is rounded once: the units cancel (R171, R173). -/
theorem F64.mul_ofNat {n : Nat} (hn : n ≤ 2 ^ 53) (b : F64) : F64.mul (F64.ofNat n) b = F64.round (n * b.units) 1 := by
  rw [F64.ofNat_exact hn, F64.mul, ← F64.round_mul_right (n * b.units) 1 F64.oneUnits_pos, Nat.one_mul, Nat.mul_right_comm]

/-- `run` on a running block whose queues have room (R182, R189). -/
theorem hostRun_of_room {s : State} (micros : Nat) (hrun : s.status = .running)
    (hroom : ∀ c, s.queueLength c < Config.queueCap) :
    hostRun micros s = .next
      { s with
        accCpu := (ticksFor s .cpu micros).2
        accSound := (ticksFor s .sound micros).2
        accTimer := (ticksFor s .timer micros).2
        qCpu := s.qCpu ++ [.tick (ticksFor s .cpu micros).1]
        qSound := s.qSound ++ [(ticksFor s .sound micros).1]
        qTimer := s.qTimer ++ [(ticksFor s .timer micros).1]
        phase := .dispatch
        response := none
        delivered := [] } := by
  rcases hostRun_running micros hrun with ⟨c, hfull, -⟩ | ⟨-, hnext⟩
  · exact absurd (of_decide_eq_true hfull) (Nat.not_le.mpr (hroom c))
  · exact hnext

/-- Settles O43: the rates and `produce` by their definitions, with the units of 1 cancelled, and the frame's start by phase 1. -/
theorem runStartsFrame : Obligations.RunStartsFrame := by
  unfold Obligations.RunStartsFrame
  refine ⟨fun b => ⟨?_, ?_, ?_⟩, fun acc micros rate => rfl, fun micros s hrun hroom => ?_⟩
  · exact F64.mul_ofNat (by decide) b
  · exact F64.mul_ofNat (by decide) b
  · exact F64.mul_ofNat (by decide) b
  · have hnext := hostRun_of_room micros hrun hroom
    obtain ⟨hcpu, hcpuLt, -⟩ := ticksFor_spec s .cpu micros
    obtain ⟨hsound, hsoundLt, -⟩ := ticksFor_spec s .sound micros
    obtain ⟨htimer, htimerLt, -⟩ := ticksFor_spec s .timer micros
    generalize ticksFor s .cpu micros = cpu at *
    generalize ticksFor s .sound micros = sound at *
    generalize ticksFor s .timer micros = timer at *
    refine ⟨_, hnext, rfl, ⟨_, rfl, hcpu⟩, ⟨_, rfl, hsound⟩, ⟨_, rfl, htimer⟩, fun c => ?_⟩
    cases c
    · exact hcpuLt
    · exact hsoundLt
    · exact htimerLt

/-- A timer tick takes one from `DT` unless it is 0 (R216). -/
theorem timerTick_dt_toNat (s : State) : (timerTick s).dt.toNat = s.dt.toNat - 1 := by
  unfold timerTick
  split
  · next h => rw [h]; rfl
  · next h =>
    have hne : s.dt.toNat ≠ 0 := fun h0 => h (BitVec.eq_of_toNat_eq h0)
    have hlt := s.dt.isLt
    show (s.dt - 1).toNat = _
    bv_omega

/-- Settles O39: the tick by its frame and its count, the controller by its law. -/
theorem timerTickCounts : Obligations.TimerTickCounts := by
  unfold Obligations.TimerTickCounts
  exact fun s => ⟨⟨timerTick_frame s, timerTick_dt_toNat s⟩, fun n => timerStep_of_left⟩

/-- The decrement of a sound tick takes one from `ST` unless it is 0 (R217). -/
theorem soundDecrement_st_toNat (s : State) : (soundDecrement s).st.toNat = s.st.toNat - 1 := by
  unfold soundDecrement
  split
  · next h => rw [h]; rfl
  · next h =>
    have hne : s.st.toNat ≠ 0 := fun h0 => h (BitVec.eq_of_toNat_eq h0)
    have hlt := s.st.isLt
    rw [State.syncWriteSt_st]
    bv_omega

/-- The decrement of a sound tick sets the flag on its step from 1 to 0 (R217, R218). -/
theorem soundDecrement_stFlag_iff (s : State) : (soundDecrement s).stFlag = true ↔ s.stFlag = true ∨ s.st = 1 := by
  unfold soundDecrement
  split
  · next h => simp [h]
  · next h =>
    have hone : s.st - 1 = 0 ↔ s.st = 1 := by constructor <;> intro h <;> bv_omega
    rw [State.syncWriteSt_stFlag, Bool.or_eq_true, crossesZero_iff, hone]
    simp only [h, false_and, not_false_eq_true, ne_eq, true_and, false_or]

/-- The decrement of a sound tick pushes nothing (R217). -/
theorem soundDecrement_qHost (s : State) : (soundDecrement s).qHost = s.qHost := by
  unfold soundDecrement
  split <;> rfl

/-- A sound tick by cases of the flag after its decrement (R217, R219). -/
theorem soundTick_eq (s : State) : soundTick s =
    if (soundDecrement s).stFlag then (soundDecrement s).clearStFlag.pushHost (.audio ((soundDecrement s).st != 0))
    else (soundDecrement s).clearStFlag := rfl

/-- `ST` after a sound tick is `ST` after its decrement (R217). -/
theorem soundTick_st (s : State) : (soundTick s).st = (soundDecrement s).st := by
  rw [soundTick_eq]
  split <;> rfl

/-- A sound tick pushes `Audio(ST > 0)` when the decrement leaves the flag set (R217, R219). -/
theorem soundTick_qHost (s : State) : (soundTick s).qHost =
    if (soundDecrement s).stFlag then s.qHost ++ [.audio ((soundTick s).st != 0)] else s.qHost := by
  rw [soundTick_st, ← soundDecrement_qHost s, soundTick_eq]
  split <;> rfl

/-- Settles O40: the tick's push is decided by the flag after its decrement, the controller by its law. -/
theorem soundTickNotifies : Obligations.SoundTickNotifies := by
  unfold Obligations.SoundTickNotifies
  intro s
  refine ⟨⟨soundTick_frame s, ?_, fun hset => ?_, fun hflag hst => ?_⟩, fun n => soundStep_of_left⟩
  · rw [soundTick_st, soundDecrement_st_toNat]
  · rw [soundTick_qHost, if_pos ((soundDecrement_stFlag_iff s).mpr hset), bne, beq_eq_decide, ← decide_not]
  · have hclear : ¬ (s.stFlag = true ∨ s.st = 1) := by
      rw [hflag]
      exact fun h => h.elim Bool.false_ne_true hst
    rw [soundTick_qHost, if_neg (mt (soundDecrement_stFlag_iff s).mp hclear)]

end Sys2Proof.Machine
end

section
/-!
PROOFS about the host's operations and the end of a frame (46_clock_and_events.md R182 to R193, 60_exceptions.md R206, R207,
70_reset_and_hazards.md R230 to R233): what each operation can answer, said once.
-/

namespace Sys2Proof.Machine

/-- `run` before the first `reset` (R207). -/
theorem hostRun_uninitialized {s : State} (micros : Nat) (h : s.status = .uninitialized) :
    hostRun micros s = .next (s.respond .notInitialized) := by
  rw [hostRun, h]

/-- `run` on a faulted block (R189, R206). -/
theorem hostRun_faulted {s : State} {f : Fault} (micros : Nat) (h : s.status = .faulted f) :
    hostRun micros s = .next (s.respond (.fault f)) := by
  rw [hostRun, h]

/-- Settles O51, by the law of `run` on a faulted block. -/
theorem faultedRunReturnsFault : Obligations.FaultedRunReturnsFault := by
  unfold Obligations.FaultedRunReturnsFault
  exact fun micros s f => hostRun_faulted micros

/-- Everything `set_key` can answer (R190, R177, R207). -/
theorem hostSetKey_cases (key : Nat) (pressed : Bool) (s : State) :
    (s.status = .uninitialized ∧ hostSetKey key pressed s = .next (s.respond .notInitialized)) ∨
    (s.status ≠ .uninitialized ∧
      ((15 < key ∧ hostSetKey key pressed s = .next (s.respond (.invalidKey key))) ∨
      ∃ k : Fin 16, k.val = key ∧
        ((s.qCpu.length < Config.queueCap ∧
          hostSetKey key pressed s = .next ({ s with qCpu := s.qCpu ++ [Event.input k pressed] }.respond .ok)) ∨
        (Config.queueCap ≤ s.qCpu.length ∧ s.status = .running ∧ hostSetKey key pressed s = .refused (.queueFull .cpu)) ∨
        (Config.queueCap ≤ s.qCpu.length ∧ s.status ≠ .running ∧ hostSetKey key pressed s = .next (s.respond .ok))))) := by
  by_cases hinit : s.status = .uninitialized
  · exact .inl ⟨hinit, by rw [hostSetKey, hinit]⟩
  · refine .inr ⟨hinit, ?_⟩
    unfold hostSetKey
    split
    · next h => exact absurd h hinit
    · by_cases hkey : key < 16
      · refine .inr ⟨⟨key, hkey⟩, rfl, ?_⟩
        rw [dif_pos hkey]
        by_cases hfull : Config.queueCap ≤ s.qCpu.length
        · have hfull' : s.queueFull .cpu = true := decide_eq_true hfull
          rw [if_pos hfull']
          by_cases hrun : s.status = .running
          · exact .inr (.inl ⟨hfull, hrun, if_pos hrun⟩)
          · exact .inr (.inr ⟨hfull, hrun, if_neg hrun⟩)
        · exact .inl ⟨Nat.lt_of_not_le hfull, if_neg fun h => hfull (of_decide_eq_true h)⟩
      · exact .inl ⟨Nat.lt_of_not_le fun h => hkey (Nat.lt_succ_of_le h), dif_neg hkey⟩

/-- Settles O45: each of the three operations looks at `STATUS` first. -/
theorem uninitializedRefuses : Obligations.UninitializedRefuses := by
  unfold Obligations.UninitializedRefuses
  intro micros key pressed writable s hinit
  refine ⟨hostRun_uninitialized micros hinit, ?_, ?_⟩
  · rcases hostSetKey_cases key pressed s with ⟨-, hnext⟩ | ⟨hne, -⟩
    · exact hnext
    · exact absurd hinit hne
  · rcases hostDump_cases writable s with ⟨-, hnext⟩ | ⟨hne, -⟩ | ⟨hne, -⟩
    · exact hnext
    · exact absurd hinit hne
    · exact absurd hinit hne

/-- Settles O46: the key decides between the error and the event, the queue between the event and what a full one does. -/
theorem setKeyOnlyEnqueues : Obligations.SetKeyOnlyEnqueues := by
  unfold Obligations.SetKeyOnlyEnqueues
  intro key pressed s hinit
  rcases hostSetKey_cases key pressed s with ⟨h, -⟩ | ⟨-, ⟨hkey, hnext⟩ | ⟨k, hk, hqueue⟩⟩
  · exact absurd h hinit
  · exact ⟨fun _ => hnext, fun k hk => by omega, fun h => by omega, fun h => by omega⟩
  · have hlt := k.isLt
    rcases hqueue with ⟨hroom, hnext⟩ | ⟨hfull, hrun, hnext⟩ | ⟨hfull, hnotRun, hnext⟩
    · refine ⟨fun h => by omega, fun j hj _ => ?_, fun _ hfull => by omega, fun _ hfull => by omega⟩
      obtain rfl : j = k := Fin.ext (by omega)
      exact hnext
    · exact ⟨fun h => by omega, fun _ _ hroom => by omega, fun _ _ _ => hnext, fun _ _ hnotRun => absurd hrun hnotRun⟩
    · exact ⟨fun h => by omega, fun _ _ hroom => by omega, fun _ _ hrun => absurd hrun hnotRun, fun _ _ _ => hnext⟩

/-- The load of a font and an image that fit succeeds (R231). -/
theorem Memory.load_fits {font image : List Byte} (hfont : font.length ≤ 4096) (himage : image.length ≤ 3584) :
    ∃ m, Memory.load font image = .ok m := by
  obtain ⟨m₁, h₁⟩ := Memory.writeSlice_fits (bs := font) [] (a := 0) (by omega)
  obtain ⟨m₂, h₂⟩ := Memory.writeSlice_fits (bs := image) m₁ (a := Config.progBase) (by rw [Config.progBase]; omega)
  exact ⟨m₂, by rw [Memory.load, h₁]; exact h₂⟩

/-- Everything `reset` can do (R231, R232): an image that fits is loaded and everything goes to its reset value; else the block stays. -/
theorem hostReset_cases (image : Option (List Byte)) (font : Vector Byte 80) (s : State) :
    (∃ rom m, image = some rom ∧ rom.length ≤ 3584 ∧ Memory.load font.toList rom = .ok m ∧
      hostReset image font s = .next (resetTo m s)) ∨
    ((∀ rom, image = some rom → 3584 < rom.length) ∧ ∃ c, hostReset image font s = .next (s.respond (.hostIO c))) := by
  cases image with
  | none => exact .inr ⟨nofun, _, rfl⟩
  | some rom =>
    by_cases hrom : rom.length ≤ 3584
    · obtain ⟨m, hm⟩ := Memory.load_fits (font := font.toList) (image := rom) (by simp) hrom
      refine .inl ⟨rom, m, rfl, hrom, hm, ?_⟩
      rw [hostReset, if_pos hrom, hm]
    · refine .inr ⟨fun _ h => ?_, .imageTooLong, if_neg hrom⟩
      obtain rfl := Option.some.inj h
      exact Nat.lt_of_not_le hrom

/-- Settles O48: with no image that fits only the second case of `reset` is left. -/
theorem failedResetChangesNothing : Obligations.FailedResetChangesNothing := by
  unfold Obligations.FailedResetChangesNothing
  intro image font s hlong
  rcases hostReset_cases image font s with ⟨rom, -, himage, hrom, -⟩ | ⟨-, hnext⟩
  · exact absurd hrom (Nat.not_le.mpr (hlong rom himage))
  · exact hnext

/-- Outside the default font an unlisted address reads as 0 (R28, R55). -/
theorem bootByte_of_ge {a : Nat} (h : 80 ≤ a) : bootByte a = 0 := if_neg (Nat.not_lt.mpr h)

/-- The registers after a reset (R28). -/
theorem reset_reg (j : Nibble) : State.reset.reg j = 0 := Vector.get_replicate _ _ _

/-- The framebuffer after a reset (R28). -/
theorem reset_pixelAt (py : Fin 32) (px : Fin 64) : State.reset.pixelAt py px = false :=
  Framebuffer.pixel_replicate false py px

/-- The memory after a load is the font below 80, the image from 0x200 on, and zero elsewhere (R231). -/
theorem Memory.get_of_load {font : Vector Byte 80} {rom : List Byte} {m : Memory}
    (h : Memory.load font.toList rom = .ok m) (a : Nat) :
    Memory.get m a = if a < 80 then font.toList.getD a 0
      else if 0x200 ≤ a ∧ a < 0x200 + rom.length then rom.getD (a - 0x200) 0 else 0 := by
  obtain ⟨-, hget⟩ := Memory.load_ok h
  rw [hget, Vector.length_toList]
  by_cases ha : a < 80
  · rw [if_neg (by omega), if_pos ha, if_pos ha]
  · rw [if_neg ha, if_neg ha, bootByte_of_ge (Nat.le_of_not_lt ha)]

/-- Settles O47: the state is the reset state but for the configuration, and its memory is the one loaded. -/
theorem resetEstablishes : Obligations.ResetEstablishes := by
  unfold Obligations.ResetEstablishes
  intro rom font s hrom
  rcases hostReset_cases (some rom) font s with ⟨rom', m, himage, -, hload, hnext⟩ | ⟨hlong, -⟩
  · obtain rfl := Option.some.inj himage
    refine ⟨resetTo m s, hnext, reset_reg, rfl, rfl, rfl, rfl, rfl, rfl, reset_pixelAt, rfl, rfl, rfl,
      fun c => by cases c <;> rfl, rfl, rfl, rfl, rfl, rfl, rfl, fun c => by cases c <;> rfl, rfl, rfl, rfl,
      (Memory.load_ok hload).1, fun a _ => Memory.get_of_load hload a⟩
  · exact absurd hrom (Nat.not_le.mpr (hlong rom rfl))

/-- Settles O49: the table row by row, the two halves of the font byte by byte. -/
theorem resetState : Obligations.ResetState := by
  unfold Obligations.ResetState
  exact ⟨reset_reg, rfl, rfl, rfl, rfl, rfl, rfl, reset_pixelAt, rfl, rfl, rfl, fun c => by cases c <;> rfl,
    fun c => by cases c <;> rfl, rfl, rfl, by decide, by decide, fun a => bootByte_of_ge⟩

/-- Between frames a step is the host's (R193). -/
theorem step_of_idle {s : State} (h : s.phase = .idle) : step s = hostStep s := by
  rw [step, h]

/-- The host performs the first operation it has issued (R193). -/
theorem hostStep_of_pending {s : State} {op : HostOp} {rest : List HostOp} (h : s.pending = op :: rest) :
    hostStep s = hostOperation op { s with pending := rest } := by
  rw [hostStep, h]

/-- Where the host has issued none, it performs the one that the free choice gives (R193). -/
theorem hostStep_of_nil {s : State} (h : s.pending = []) :
    hostStep s = hostOperation (Config.hostOp s.draws) s.countDraw := by
  rw [hostStep, h]

/-- Settles O58: an operation listed is performed from the list, and one chosen is performed as if it had been the whole list. -/
theorem stepPerformsHostOperation : Obligations.StepPerformsHostOperation := by
  unfold Obligations.StepPerformsHostOperation
  intro s hidle
  have hlisted : ∀ op rest, s.pending = op :: rest → step s = hostOperation op { s with pending := rest } :=
    fun op rest h => (step_of_idle hidle).trans (hostStep_of_pending h)
  refine ⟨fun rest => ⟨fun image font => hlisted _ rest, fun micros => hlisted _ rest, fun key pressed => hlisted _ rest,
    fun writable => hlisted _ rest, fun c bits => hlisted _ rest, fun mode => hlisted _ rest,
    fun video audio => hlisted _ rest⟩, fun hnil => ?_⟩
  calc step s = hostOperation (Config.hostOp s.draws) s.countDraw := (step_of_idle hidle).trans (hostStep_of_nil hnil)
    _ = hostOperation (Config.hostOp s.draws) { s with pending := [], draws := s.draws + 1 } := by
      rw [State.countDraw, ← hnil]
    _ = step { s with pending := [Config.hostOp s.draws], draws := s.draws + 1 } :=
      ((step_of_idle (s := { s with pending := [Config.hostOp s.draws], draws := s.draws + 1 }) hidle).trans
        (hostStep_of_pending rfl)).symm

/-- The picture that a callback receives is the rows one after the other (R187). -/
theorem rowMajor_eq_flatten (fb : Framebuffer) : rowMajor fb = (Vector.flatten fb).toList := by
  simp [rowMajor, Vector.flatten, Vector.toList, Array.toList_flatten, Function.comp_def]

/-- Pixel `px` of row `py` is number `64 * py + px` of the 2048 (R17, R187). -/
theorem rowMajor_getElem? (fb : Framebuffer) (py : Fin 32) (px : Fin 64) :
    (rowMajor fb)[py.val * 64 + px.val]? = some (Framebuffer.pixel fb py px) := by
  have hlt : py.val * 64 + px.val < 32 * 64 := by omega
  have hrow : (py.val * 64 + px.val) / 64 = py.val := by omega
  have hcol : (py.val * 64 + px.val) % 64 = px.val := by omega
  rw [rowMajor_eq_flatten, Vector.getElem?_toList, Vector.getElem?_eq_getElem hlt, Vector.getElem_flatten hlt]
  simp only [hrow, hcol]
  rfl

/-- The end of a frame on a running block (R182, R187). -/
theorem finishFrame_of_running {s : State} (h : s.status = .running) :
    finishFrame s = { drainHost s with phase := .idle, response := some .ok } := by
  rw [finishFrame, h]

/-- The end of a frame on a faulted block: phase 3 delivers or does not (R206, U11). -/
theorem finishFrame_of_faulted {s : State} {f : Fault} (h : s.status = .faulted f) :
    finishFrame s =
      { (if Config.deliverOnFault s.draws then drainHost s else s).countDraw with
        phase := .idle, response := some (.fault f) } := by
  rw [finishFrame, h]

/-- Settles O44: with no controller to move the step is the frame's end, on a running and on a faulted block. -/
theorem frameEndDelivers : Obligations.FrameEndDelivers := by
  unfold Obligations.FrameEndDelivers
  intro s
  refine ⟨fun hphase hnone => ⟨fun hrun => ?_, fun f hfault => ?_⟩, fun on => rfl,
    rowMajor s.fb, rfl, by simp [rowMajor_eq_flatten], rowMajor_getElem? s.fb⟩
  · refine ⟨_, step_of_pick_none hphase hnone, ?_⟩
    rw [finishFrame_of_running hrun]
    exact ⟨rfl, rfl⟩
  · refine ⟨_, step_of_pick_none hphase hnone, ?_⟩
    rw [finishFrame_of_faulted hfault]
    cases Config.deliverOnFault s.draws
    · exact ⟨rfl, .inr ⟨rfl, rfl⟩⟩
    · exact ⟨rfl, .inl ⟨rfl, rfl⟩⟩

/-- A change of bias that the host can make, field by field (R192). -/
theorem State.setBias_frame (s : State) (c : Ctrl) (b : F64) :
    s.setBias c b = { s with
      biasCpu := (s.setBias c b).biasCpu, biasSound := (s.setBias c b).biasSound, biasTimer := (s.setBias c b).biasTimer } := by
  cases c <;> rfl

/-- A bias reads what was last set, the others are left alone (R192). -/
theorem State.bias_setBias (s : State) (c d : Ctrl) (b : F64) :
    (s.setBias c b).bias d = if d = c then b else s.bias d := by
  cases c <;> cases d <;> rfl

/-- A change of bias with acceptable bits (R173, R192). -/
theorem hostSetBias_of_some {bits : BitVec 64} {b : F64} (h : F64.ofBits bits = some b) (c : Ctrl) (s : State) :
    hostSetBias c bits s = .next ((s.setBias c b).respond .ok) := by
  rw [hostSetBias, h]

/-- A change of bias with other bits is refused (R192, U13). -/
theorem hostSetBias_of_none {bits : BitVec 64} (h : F64.ofBits bits = none) (c : Ctrl) (s : State) :
    hostSetBias c bits s = .refused (.badBias c) := by
  rw [hostSetBias, h]

/-- The number that the bits of a binary64 stand for, by the exponent and the fraction as numbers (R173, R174). -/
theorem F64.ofBits_eq (bits : BitVec 64) :
    F64.ofBits bits =
      if bits.toNat / 2 ^ 52 % 2 ^ 11 = 2047 then none
      else if bits.getLsbD 63 = true ∧ ¬ (bits.toNat / 2 ^ 52 % 2 ^ 11 = 0 ∧ bits.toNat % 2 ^ 52 = 0) then none
      else if bits.toNat / 2 ^ 52 % 2 ^ 11 = 0 then some ⟨bits.toNat % 2 ^ 52⟩
      else some ⟨(2 ^ 52 + bits.toNat % 2 ^ 52) * 2 ^ (bits.toNat / 2 ^ 52 % 2 ^ 11 - 1)⟩ := by
  have hsign : bits.extractLsb' 63 1 = 1#1 ↔ bits.getLsbD 63 = true := by
    rw [← BitVec.toNat_inj, BitVec.extractLsb'_toNat, Nat.shiftRight_eq_div_pow, ← Bool.toNat_eq_one, BitVec.getLsbD,
      Nat.toNat_testBit]
    rfl
  rw [F64.ofBits]
  simp only [hsign, BitVec.extractLsb'_toNat, Nat.shiftRight_eq_div_pow, Nat.pow_zero, Nat.div_one]

/-- The bits of 1.0: exponent 1023, fraction 0 (R173). -/
theorem F64.ofBits_one : F64.ofBits 0x3FF0000000000000 = some ⟨F64.oneUnits⟩ := by
  have hexp : (0x3FF0000000000000 : BitVec 64).toNat / 2 ^ 52 % 2 ^ 11 = 1023 := by decide
  have hfrac : (0x3FF0000000000000 : BitVec 64).toNat % 2 ^ 52 = 0 := by decide
  have hsign : (0x3FF0000000000000 : BitVec 64).getLsbD 63 = false := by decide
  have hunits : 2 ^ 52 * 2 ^ 1022 = F64.oneUnits := by
    rw [F64.oneUnits_eq, show 1074 = 52 + 1022 from rfl, Nat.pow_add]
  rw [F64.ofBits_eq, hexp, hfrac, hsign, if_neg (by decide), if_neg (by decide), if_neg (by decide), Nat.add_zero, hunits]

/-- Settles O60: the dump by its law, the bits by what they stand for, each change of configuration by its frame. -/
theorem dumpAndConfigure : Obligations.DumpAndConfigure := by
  unfold Obligations.DumpAndConfigure
  refine ⟨fun bits => ⟨fun hbad => ?_, fun hexp hsign => ?_⟩, ?_, fun s => ⟨fun hinit => ⟨?_, ?_⟩, fun mode => rfl,
    fun video audio => rfl, fun c bits => ⟨fun b hb => ?_, fun hnone => hostSetBias_of_none hnone c s⟩⟩⟩
  · rw [F64.ofBits_eq]
    rcases hbad with hexp | ⟨hneg, hne⟩
    · rw [if_pos hexp]
    · rw [if_pos (c := _ ∧ _) ⟨hneg, not_and_or.mpr hne⟩, ite_self]
  · have hgood : ¬ (bits.getLsbD 63 = true ∧ ¬ (bits.toNat / 2 ^ 52 % 2 ^ 11 = 0 ∧ bits.toNat % 2 ^ 52 = 0)) := by
      rintro ⟨hneg, hne⟩
      exact hsign.elim (fun hpos => Bool.false_ne_true (hpos.symm.trans hneg)) hne
    rw [F64.ofBits_eq, if_neg hexp, if_neg hgood]
    split <;> rfl
  · exact F64.ofBits_one
  · rcases hostDump_cases true s with ⟨h, -⟩ | ⟨-, -, hnext⟩ | ⟨-, h, -⟩
    · exact absurd h hinit
    · exact ⟨_, hnext, by simp, fun a ha => by simp [ha]⟩
    · cases h
  · rcases hostDump_cases false s with ⟨h, -⟩ | ⟨-, h, -⟩ | ⟨-, -, hnext⟩
    · exact absurd h hinit
    · cases h
    · exact ⟨_, hnext⟩
  · refine ⟨_, hostSetBias_of_some hb c s, ?_, fun d => s.bias_setBias c d b⟩
    rw [s.setBias_frame c b]
    rfl

end Sys2Proof.Machine
end

section
/-!
PROOFS of the rules over all instructions (10_state.md R14 to R27, 20_memory.md R47): what no instruction reads or writes, and which fields
each instruction may change, said once as its frame.
-/

namespace Sys2Proof.Machine

/-- An answer with its next state changed. -/
def mapNext (f : State → State) : Answer → Answer
  | .next s => .next (f s)
  | .fault r => .fault r
  | .refused r => .refused r

section
variable (s h : State)

@[simp] theorem mapNext_next (f : State → State) : mapNext f (.next s) = .next (f s) := rfl
@[simp] theorem State.withHidden_mem : (s.withHidden h).mem = s.mem := rfl
@[simp] theorem State.withHidden_i : (s.withHidden h).i = s.i := rfl
@[simp] theorem State.withHidden_fb : (s.withHidden h).fb = s.fb := rfl
@[simp] theorem State.withHidden_wake : (s.withHidden h).wake = s.wake := rfl
@[simp] theorem State.withHidden_reg (x : Nibble) : (s.withHidden h).reg x = s.reg x := rfl
@[simp] theorem State.withHidden_self : s.withHidden s = s := rfl

@[simp] theorem State.withHidden_acc (c : Ctrl) : (s.withHidden h).acc c = h.acc c := by cases c <;> rfl
@[simp] theorem State.withHidden_bias (c : Ctrl) : (s.withHidden h).bias c = h.bias c := by cases c <;> rfl
@[simp] theorem State.withHidden_queueLength (c : Ctrl) : (s.withHidden h).queueLength c = h.queueLength c := by
  cases c <;> rfl

/-- A skip does the same whatever the hidden state is. -/
theorem State.skipIf_withHidden (c : Bool) : (s.withHidden h).skipIf c = (s.skipIf c).withHidden h := by cases c <;> rfl

/-- A push does the same whatever the hidden state is. -/
theorem State.push_withHidden (p : Word) : (s.withHidden h).push p = (s.push p).map (·.withHidden h) := by
  unfold State.push
  by_cases hroom : s.sp.val < Config.stackDepth
  · rw [dif_pos hroom, dif_pos (show (s.withHidden h).sp.val < Config.stackDepth from hroom)]
    rfl
  · rw [dif_neg hroom, dif_neg (show ¬ (s.withHidden h).sp.val < Config.stackDepth from hroom)]
    rfl

/-- A key skip does the same whatever the hidden state is. -/
theorem keySkip_withHidden (x : Nibble) (wanted : Bool) :
    keySkip x wanted (s.withHidden h) = mapNext (·.withHidden h) (keySkip x wanted s) := by
  unfold keySkip
  rw [State.withHidden_reg]
  split
  · exact congrArg Host.Outcome.next (State.skipIf_withHidden s h _)
  · rfl

end

/-- A pop does the same whatever the hidden state is. -/
theorem State.pop_withHidden (s h : State) :
    (s.withHidden h).pop = s.pop.map fun r => (r.1, r.2.withHidden h) := by
  unfold State.pop
  rw [show (s.withHidden h).sp = s.sp from rfl]
  rcases s.sp with ⟨_ | k, hk⟩ <;> rfl

/-- The loop of `bcd` does the same whatever the hidden state is. -/
theorem storeBytes_withHidden (h : State) (bs : List Byte) : ∀ (a : Nat) (s : State),
    storeBytes bs a (s.withHidden h) = mapNext (·.withHidden h) (storeBytes bs a s) := by
  induction bs with
  | nil => exact fun _ _ => rfl
  | cons b bs ih =>
    intro a s
    simp only [storeBytes, State.withHidden_mem]
    cases Memory.write8 s.mem a b with
    | error f => rfl
    | ok m => exact ih (a + 1) (s.setMem m)

/-- The loop of `save` does the same whatever the hidden state is. -/
theorem saveRegs_withHidden (h : State) (rs : List Nibble) : ∀ s : State,
    saveRegs rs (s.withHidden h) = mapNext (·.withHidden h) (saveRegs rs s) := by
  induction rs with
  | nil => exact fun _ => rfl
  | cons r rs ih =>
    intro s
    simp only [saveRegs, effAddr, State.withHidden_mem, State.withHidden_reg, State.withHidden_i]
    cases Memory.write8 s.mem (s.i.toNat + 0) (s.reg r) with
    | error f => rfl
    | ok m => exact ih ((s.setMem m).setI (s.i + 1))

/-- The loop of `load` does the same whatever the hidden state is. -/
theorem loadRegs_withHidden (h : State) (rs : List Nibble) : ∀ s : State,
    loadRegs rs (s.withHidden h) = mapNext (·.withHidden h) (loadRegs rs s) := by
  induction rs with
  | nil => exact fun _ => rfl
  | cons r rs ih =>
    intro s
    simp only [loadRegs, effAddr, State.withHidden_mem, State.withHidden_i]
    cases Memory.read8 s.mem (s.i.toNat + 0) with
    | error f => rfl
    | ok b => exact ih ((s.setReg r b).setI (s.i + 1))

theorem execDraw_withHidden (x y n : Nibble) (s h : State) :
    execDraw x y n (s.withHidden h) = mapNext (·.withHidden h) (execDraw x y n s) := by
  simp only [execDraw, effAddr, State.withHidden_mem, State.withHidden_reg, State.withHidden_i, State.withHidden_fb]
  rcases blitRows s.mem (s.i.toNat + 0) (s.reg x).toNat (s.reg y).toNat n.toNat 0 ⟨s.fb, false⟩ with ⟨p, _ | f⟩ <;> rfl

theorem execRet_withHidden (s h : State) : execRet (s.withHidden h) = mapNext (·.withHidden h) (execRet s) := by
  simp only [execRet, State.pop_withHidden]
  rcases s.pop with _ | ⟨p, s'⟩ <;> rfl

theorem execCall_withHidden (nnn : Addr) (s h : State) :
    execCall nnn (s.withHidden h) = mapNext (·.withHidden h) (execCall nnn s) := by
  rw [execCall, execCall, show (s.withHidden h).pc = s.pc from rfl, State.push_withHidden]
  rcases s.push s.pc with _ | s' <;> rfl

theorem execKeyr_withHidden (x : Nibble) (s h : State) :
    execKeyr x (s.withHidden h) = mapNext (·.withHidden h) (execKeyr x s) := by
  simp only [execKeyr, State.withHidden_wake]
  rcases s.wake with _ | k <;> rfl

/-- Every instruction does the same whatever the hidden state is, and leaves it as it was (R20, R21, R24, R27). -/
theorem exec_withHidden (i : Instr) (s h : State) :
    exec i (s.withHidden h) = mapNext (·.withHidden h) (exec i s) := by
  cases i
  case ret => exact execRet_withHidden s h
  case call nnn => exact execCall_withHidden nnn s h
  case draw x y n => exact execDraw_withHidden x y n s h
  case keyr x => exact execKeyr_withHidden x s h
  case sifeqi | sifnei | sifeq | sifne => exact congrArg Host.Outcome.next (State.skipIf_withHidden s h _)
  case sifkeq | sifkne => exact keySkip_withHidden s h _ _
  case bcd x => exact storeBytes_withHidden h _ _ s
  case save x => exact saveRegs_withHidden h _ s
  case load x => exact loadRegs_withHidden h _ s
  all_goals rfl

/-- What an instruction leaves is unchanged in the hidden state (R20, R21, R24, R27). -/
theorem exec_keeps_hidden {i : Instr} {s t : State} (h : exec i s = .next t) : t.withHidden s = t := by
  have hself := exec_withHidden i s s
  rw [State.withHidden_self, h] at hself
  exact (Host.Outcome.next.inj hself).symm

/-- Settles O52: an instruction commutes with a change of the hidden state. -/
theorem hiddenStateIsHidden : Obligations.HiddenStateIsHidden := by
  unfold Obligations.HiddenStateIsHidden
  intro i s h t hexec
  exact ⟨exec_keeps_hidden hexec, by rw [exec_withHidden, hexec, mapNext_next]⟩

/-- The status stays, or records a fault. -/
def keepsOrFaults (s t : State) : Prop := t.status = s.status ∨ ∃ f, t.status = .faulted f

/-- The frame of an instruction: the fields it may change, `STATUS` where it can fault. -/
def instrFrame (i : Instr) (s t : State) : Prop :=
  match i with
  | .sys _ => t = { s with status := t.status }
  | .cls => t = { s with fb := t.fb }
  | .ret => t = { s with pc := t.pc, sp := t.sp, status := t.status }
  | .call _ => t = { s with pc := t.pc, stack := t.stack, sp := t.sp, status := t.status }
  | .jump _ | .jumpv0 _ | .sifeqi _ _ | .sifnei _ _ | .sifeq _ _ _ | .sifne _ _ => t = { s with pc := t.pc }
  | .sifkeq _ | .sifkne _ => t = { s with pc := t.pc, status := t.status }
  | .movi _ _ | .addi _ _ | .mov _ _ | .or _ _ | .and _ _ | .xor _ _ | .add _ _ | .sub _ _ | .shr1 _ _ | .rsub _ _
  | .shl1 _ _ | .timerr _ => t = { s with v := t.v }
  | .rand _ _ => t = { s with v := t.v, draws := t.draws }
  | .movidx _ | .addidx _ | .font _ => t = { s with i := t.i }
  | .draw _ _ _ => t = { s with fb := t.fb, v := t.v, qHost := t.qHost, status := t.status }
  | .keyr _ => t = { s with v := t.v, pc := t.pc, halt := t.halt, wake := t.wake }
  | .timerw _ => t = { s with dt := t.dt }
  | .soundw _ => t = { s with st := t.st, stFlag := t.stFlag }
  | .bcd _ => t = { s with mem := t.mem, status := t.status }
  | .save _ => t = { s with mem := t.mem, i := t.i, status := t.status }
  | .load _ => t = { s with v := t.v, i := t.i, status := t.status }

/-- `ret` keeps to its frame (R102). -/
theorem execRet_frame {s t : State} (h : execRet s = .next t) : instrFrame .ret s t ∧ keepsOrFaults s t := by
  unfold execRet at h
  rcases State.pop_cases s with ⟨-, hpop⟩ | ⟨k, s', -, hpop, hframe, -⟩ <;> rw [hpop] at h <;> cases h
  · exact ⟨rfl, .inr ⟨_, rfl⟩⟩
  · rw [hframe]
    exact ⟨rfl, .inl rfl⟩

/-- `call` keeps to its frame (R104). -/
theorem execCall_frame {nnn : Addr} {s t : State} (h : execCall nnn s = .next t) :
    instrFrame (.call nnn) s t ∧ keepsOrFaults s t := by
  unfold execCall at h
  rcases State.push_cases s s.pc with ⟨-, s', hpush, hframe, -⟩ | ⟨-, hpush⟩ <;> rw [hpush] at h <;> cases h
  · rw [hframe]
    exact ⟨rfl, .inl rfl⟩
  · exact ⟨rfl, .inr ⟨_, rfl⟩⟩

/-- `draw` keeps to its frame (R153). -/
theorem execDraw_frame {x y n : Nibble} {s t : State} (h : execDraw x y n s = .next t) :
    instrFrame (.draw x y n) s t ∧ keepsOrFaults s t := by
  unfold execDraw at h
  split at h <;> cases h
  · exact ⟨rfl, .inr ⟨_, rfl⟩⟩
  · exact ⟨rfl, .inl rfl⟩

/-- `keyr` keeps to its frame (R164). -/
theorem execKeyr_frame {x : Nibble} {s t : State} (h : execKeyr x s = .next t) :
    instrFrame (.keyr x) s t ∧ keepsOrFaults s t := by
  unfold execKeyr at h
  split at h <;> cases h <;> exact ⟨rfl, .inl rfl⟩

/-- A register skip changes `PC` alone (R93). -/
theorem State.skipIf_frame {s t : State} {c : Bool} (h : Host.Outcome.next (s.skipIf c) = (.next t : Answer)) :
    t = { s with pc := t.pc } ∧ keepsOrFaults s t := by
  rw [State.skipIf_eq] at h
  cases h
  exact ⟨rfl, .inl rfl⟩

/-- A key skip changes `PC`, or faults (R161, R162). -/
theorem keySkip_frame {x : Nibble} {wanted : Bool} {s t : State} (h : keySkip x wanted s = .next t) :
    t = { s with pc := t.pc, status := t.status } ∧ keepsOrFaults s t := by
  rcases keySkip_cases x wanted s with ⟨-, hskip⟩ | ⟨-, hfault⟩
  · rw [hskip, State.skipIf_eq] at h
    cases h
    exact ⟨rfl, .inl rfl⟩
  · rw [hfault] at h
    cases h
    exact ⟨rfl, .inr ⟨_, rfl⟩⟩

/-- Every instruction keeps to its frame, and its status stays or records a fault (R98, R206). -/
theorem exec_frame {i : Instr} {s t : State} (h : exec i s = .next t) : instrFrame i s t ∧ keepsOrFaults s t := by
  cases i
  case ret => exact execRet_frame h
  case call => exact execCall_frame h
  case draw => exact execDraw_frame h
  case keyr => exact execKeyr_frame h
  case sifeqi | sifnei | sifeq | sifne => exact State.skipIf_frame h
  case sifkeq | sifkne => exact keySkip_frame h
  case bcd =>
    obtain ⟨hframe, -, -, hstatus⟩ := storeBytes_frame h
    exact ⟨hframe, hstatus⟩
  case save =>
    obtain ⟨hframe, -, -, hstatus⟩ := saveRegs_frame h
    exact ⟨hframe, hstatus⟩
  case load =>
    obtain ⟨hframe, -, hstatus⟩ := loadRegs_frame h
    exact ⟨hframe, hstatus⟩
  case sys => cases h; exact ⟨rfl, .inr ⟨_, rfl⟩⟩
  all_goals cases h; exact ⟨rfl, .inl rfl⟩

section
variable {i : Instr} {s t : State} (h : exec i s = .next t)
include h

/-- No instruction touches `KEYPAD` (R15). -/
theorem exec_keypad : t.keypad = s.keypad := by
  obtain ⟨hframe, -⟩ := exec_frame h
  cases i <;> exact (congrArg State.keypad hframe :)

/-- Only `cls` and `draw` touch the framebuffer (R17). -/
theorem exec_fb (hcls : i ≠ .cls) (hdraw : ∀ x y n, i ≠ .draw x y n) : t.fb = s.fb := by
  obtain ⟨hframe, -⟩ := exec_frame h
  cases i
  case cls => exact absurd rfl hcls
  case draw x y n => exact absurd rfl (hdraw x y n)
  all_goals exact (congrArg State.fb hframe :)

/-- Only `draw` touches the host queue (R22, R155). -/
theorem exec_qHost (hdraw : ∀ x y n, i ≠ .draw x y n) : t.qHost = s.qHost := by
  obtain ⟨hframe, -⟩ := exec_frame h
  cases i
  case draw x y n => exact absurd rfl (hdraw x y n)
  all_goals exact (congrArg State.qHost hframe :)

/-- Only `call` touches the entries of the stack (R14). -/
theorem exec_stack (hcall : ∀ nnn, i ≠ .call nnn) : t.stack = s.stack := by
  obtain ⟨hframe, -⟩ := exec_frame h
  cases i
  case call nnn => exact absurd rfl (hcall nnn)
  all_goals exact (congrArg State.stack hframe :)

/-- Only `call` and `ret` touch `SP` (R14). -/
theorem exec_sp (hcall : ∀ nnn, i ≠ .call nnn) (hret : i ≠ .ret) : t.sp = s.sp := by
  obtain ⟨hframe, -⟩ := exec_frame h
  cases i
  case call nnn => exact absurd rfl (hcall nnn)
  case ret => exact absurd rfl hret
  all_goals exact (congrArg State.sp hframe :)

/-- Only `keyr` touches `HALT` and `WAKE` (R16, R169). -/
theorem exec_halt_wake (hkeyr : ∀ x, i ≠ .keyr x) : t.halt = s.halt ∧ t.wake = s.wake := by
  obtain ⟨hframe, -⟩ := exec_frame h
  cases i
  case keyr x => exact absurd rfl (hkeyr x)
  all_goals exact ⟨(congrArg State.halt hframe :), (congrArg State.wake hframe :)⟩

/-- Only `timerw` touches `DT` (R18). -/
theorem exec_dt (htimerw : ∀ x, i ≠ .timerw x) : t.dt = s.dt := by
  obtain ⟨hframe, -⟩ := exec_frame h
  cases i
  case timerw x => exact absurd rfl (htimerw x)
  all_goals exact (congrArg State.dt hframe :)

/-- Only `soundw` touches `ST` and its flag (R19). -/
theorem exec_st (hsoundw : ∀ x, i ≠ .soundw x) : t.st = s.st ∧ t.stFlag = s.stFlag := by
  obtain ⟨hframe, -⟩ := exec_frame h
  cases i
  case soundw x => exact absurd rfl (hsoundw x)
  all_goals exact ⟨(congrArg State.st hframe :), (congrArg State.stFlag hframe :)⟩

/-- Only `bcd` and `save` touch `MEM` (R25, R47). -/
theorem exec_mem (hbcd : ∀ x, i ≠ .bcd x) (hsave : ∀ x, i ≠ .save x) : t.mem = s.mem := by
  obtain ⟨hframe, -⟩ := exec_frame h
  cases i
  case bcd x => exact absurd rfl (hbcd x)
  case save x => exact absurd rfl (hsave x)
  all_goals exact (congrArg State.mem hframe :)

end

/-- Settles O54, field by field, from the frames of the instructions. -/
theorem whoWritesWhat : Obligations.WhoWritesWhat := by
  unfold Obligations.WhoWritesWhat
  exact fun i s t h => ⟨exec_keypad h, exec_fb h, exec_qHost h, exec_stack h, exec_sp h, exec_halt_wake h, exec_dt h, exec_st h⟩

/-- Settles O53: `bcd` and `save` by the laws of their loops, every other instruction keeps the whole memory. -/
theorem storesNothingElse : Obligations.StoresNothingElse := by
  unfold Obligations.StoresNothingElse
  intro i s t h a hout
  by_cases hbcd : ∃ x, i = .bcd x
  · obtain ⟨x, rfl⟩ := hbcd
    obtain ⟨-, hbytes, -⟩ := storeBytes_frame (bs := bcdDigits (s.reg x)) h
    have hlen : (bcdDigits (s.reg x)).length = 3 := rfl
    simp only [storesTo, effAddr] at hout
    exact hbytes a (by simp only [effAddr]; omega)
  by_cases hsave : ∃ x, i = .save x
  · obtain ⟨x, rfl⟩ := hsave
    rw [exec_save] at h
    obtain ⟨-, hbytes, -⟩ := saveRegs_frame h
    rw [regsFrom_length] at hbytes
    simp only [storesTo, effAddr] at hout
    exact hbytes a (by omega)
  · rw [State.byteAt, exec_mem h (fun x hx => hbcd ⟨x, hx⟩) (fun x hx => hsave ⟨x, hx⟩), State.byteAt]

end Sys2Proof.Machine
end

section
/-!
PROOFS over every step of every agent: what a step of a controller and of the host can answer, said once, and from it the invariant of the
block (R94, R164, R170, R174, R177, R184) and the stickiness of a fault (R206, R212).
-/

namespace Sys2Proof.Machine

/-- Settles O55: after a reset every clause speaks of zeros, of 1.0 and of empty lists. -/
theorem invAtReset : Obligations.InvAtReset := by
  have hone : F64.one.representable := by
    have := F64.representable_mul_two_pow (m := 1) (by decide) 1074
    rwa [Nat.one_mul, ← F64.oneUnits_eq] at this
  unfold Obligations.InvAtReset
  exact
    { memForm := Memory.wf_nil
      accFraction := fun c => by cases c <;> exact F64.oneUnits_pos
      inFormat := fun c => by cases c <;> exact ⟨F64.zero_representable, hone⟩
      haltOrWake := fun h => by cases h
      pcBound := by decide
      stackBound := fun k hk => absurd hk (Nat.not_lt_zero _)
      queueBound := fun c => by cases c <;> exact Nat.zero_le _
      oneTick := ⟨Nat.zero_le _, Nat.zero_le _⟩
      frameDone := fun _ _ => ⟨rfl, rfl, rfl, rfl, rfl, rfl⟩
      frameReset := fun h => by cases h }

/-! ### The invariant under the updates of a step -/

/-- Raising a fault keeps the invariant (R206). -/
theorem Inv.setStatus_faulted {s : State} (hinv : Inv s) (f : Fault) : Inv (s.setStatus (.faulted f)) :=
  { hinv with
    frameDone := fun _ h => by cases h
    frameReset := fun _ h => by cases h }

/-- A `PC` in its bound keeps the invariant (R94). -/
theorem Inv.setPc {s : State} (hinv : Inv s) {p : Word} (hp : p.toNat ≤ 0x10FE) : Inv (s.setPc p) :=
  { hinv with pcBound := hp }

/-- Taking a free value keeps the invariant (R26). -/
theorem Inv.countDraw {s : State} (hinv : Inv s) : Inv s.countDraw := { hinv with }

/-- Answering the host keeps the invariant (R207). -/
theorem Inv.respond {s : State} (hinv : Inv s) (r : Response) : Inv (s.respond r) := { hinv with }

/-- Taking an operation from the host's list keeps the invariant (R193). -/
theorem Inv.setPending {s : State} (hinv : Inv s) (ops : List HostOp) : Inv { s with pending := ops } := { hinv with }

/-- A queue of the CPU within the capacity keeps the invariant (R177). -/
theorem Inv.setQCpu {s : State} (hinv : Inv s) {q : List Event} (hq : q.length ≤ Config.queueCap) : Inv { s with qCpu := q } :=
  { hinv with
    queueBound := fun c => match c with
      | .cpu => hq
      | .sound => hinv.queueBound .sound
      | .timer => hinv.queueBound .timer }

/-- An event queue has room for at least one event (R177). -/
theorem one_le_queueCap : 1 ≤ Config.queueCap := Nat.succ_le_of_lt (Nat.succ_pos _)

section
variable {s : State} (hinv : Inv s) (hframe : s.phase ≠ .idle)
include hinv hframe

/-- Inside a frame the iteration counts are free (R180). -/
theorem Inv.setLeft (c : Ctrl) (n : Nat) : Inv (s.setLeft c n) := by
  cases c <;> exact { hinv with frameDone := fun h => absurd h hframe }

/-- Inside a frame Sound's queue may hold one `Tick` (R177). -/
theorem Inv.setQSound {q : List Nat} (hq : q.length ≤ 1) : Inv { s with qSound := q } :=
  { hinv with
    queueBound := fun c => match c with
      | .cpu => hinv.queueBound .cpu
      | .sound => Nat.le_trans hq one_le_queueCap
      | .timer => hinv.queueBound .timer
    oneTick := ⟨hq, hinv.oneTick.2⟩
    frameDone := fun h => absurd h hframe }

/-- Inside a frame Timer's queue may hold one `Tick` (R177). -/
theorem Inv.setQTimer {q : List Nat} (hq : q.length ≤ 1) : Inv { s with qTimer := q } :=
  { hinv with
    queueBound := fun c => match c with
      | .cpu => hinv.queueBound .cpu
      | .sound => hinv.queueBound .sound
      | .timer => Nat.le_trans hq one_le_queueCap
    oneTick := ⟨hinv.oneTick.1, hq⟩
    frameDone := fun h => absurd h hframe }

/-- A sound tick inside a frame keeps the invariant (R217). -/
theorem Inv.soundTick : Inv (soundTick s) := by
  rw [soundTick_frame]
  exact { hinv with frameDone := fun h => absurd h hframe }

end

/-- A timer tick keeps the invariant (R216). -/
theorem Inv.timerTick {s : State} (hinv : Inv s) : Inv (timerTick s) := by
  rw [timerTick_frame]
  exact { hinv with }

/-- An `Input` event keeps the invariant: a press that records a key clears `HALT` (R164 (4), R165). -/
theorem Inv.inputEvent {s : State} (hinv : Inv s) (key : Fin 16) (pressed : Bool) : Inv (inputEvent key pressed s) := by
  rw [inputEvent_frame]
  refine { hinv with haltOrWake := fun (hhalt : (if s.halt && pressed then false else s.halt) = true) => ?_ }
  show (if s.halt && pressed then some key else s.wake) = none
  by_cases hwakes : (s.halt && pressed) = true
  · rw [if_pos hwakes] at hhalt
    cases hhalt
  · rw [if_neg hwakes] at hhalt ⊢
    exact hinv.haltOrWake hhalt

/-! ### The invariant under the instructions -/

section
variable {i : Instr} {s t : State} (h : exec i s = .next t)
include h

/-- An instruction keeps the canonical form of the memory (R47). -/
theorem exec_keeps_memForm (hmem : Memory.wf s.mem) : Memory.wf t.mem := by
  by_cases hbcd : ∃ x, i = .bcd x
  · obtain ⟨x, rfl⟩ := hbcd
    obtain ⟨-, -, hwf, -⟩ := storeBytes_frame (bs := bcdDigits (s.reg x)) h
    exact hwf hmem
  by_cases hsave : ∃ x, i = .save x
  · obtain ⟨x, rfl⟩ := hsave
    obtain ⟨-, -, hwf, -⟩ := saveRegs_frame (rs := regsUpTo x) h
    exact hwf hmem
  · rwa [exec_mem h (fun x hx => hbcd ⟨x, hx⟩) (fun x hx => hsave ⟨x, hx⟩)]

/-- `keyr` halts only without a recorded key, and takes the recorded one (R164 (4)). -/
theorem exec_keeps_haltOrWake (hhw : s.halt = true → s.wake = none) (hhalt : t.halt = true) : t.wake = none := by
  by_cases hkeyr : ∃ x, i = .keyr x
  · obtain ⟨x, rfl⟩ := hkeyr
    rcases hwake : s.wake with _ | k
    · rw [exec_keyr_of_none hwake] at h
      cases h
      exact hwake
    · rw [exec_keyr_of_some hwake] at h
      cases h
      rfl
  · obtain ⟨hhalt', hwake'⟩ := exec_halt_wake h fun x hx => hkeyr ⟨x, hx⟩
    rw [hwake']
    exact hhw (hhalt' ▸ hhalt)

/-- `call` pushes the post-fetch `PC`, which is at most 4096, and no other instruction adds an entry (R102, R104). -/
theorem exec_keeps_stackBound (hpc : s.pc.toNat ≤ 4096)
    (hstack : ∀ k : Fin 16, k.val < s.sp.val → (s.stack.get k).toNat ≤ 4096) :
    ∀ k : Fin 16, k.val < t.sp.val → (t.stack.get k).toNat ≤ 4096 := by
  intro k hk
  by_cases hcall : ∃ nnn, i = .call nnn
  · obtain ⟨nnn, rfl⟩ := hcall
    rcases State.push_cases s s.pc with ⟨-, s', hpush, -, hsp, hentry⟩ | ⟨-, hpush⟩
    · rw [exec_call_of_push_some hpush] at h
      cases h
      rw [State.setPc_sp, hsp] at hk
      rw [State.setPc_stack, hentry]
      split
      · exact hpc
      · exact hstack k (by omega)
    · rw [exec_call_of_push_none hpush] at h
      cases h
      exact hstack k hk
  · rw [exec_stack h fun nnn hi => hcall ⟨nnn, hi⟩]
    by_cases hret : i = .ret
    · subst hret
      rcases State.pop_cases s with ⟨-, hpop⟩ | ⟨j, s', hj, hpop, -, hsp⟩
      · rw [exec_ret_of_pop_none hpop] at h
        cases h
        exact hstack k hk
      · rw [exec_ret_of_pop_some hpop] at h
        cases h
        rw [State.setPc_sp, hsp] at hk
        exact hstack k (by omega)
    · rw [exec_sp h (fun nnn hi => hcall ⟨nnn, hi⟩) hret] at hk
      exact hstack k hk

end

/-- A skip moves `PC` by at most two (R93). -/
theorem State.skipIf_pc_le {s : State} (c : Bool) (hpc : s.pc.toNat ≤ 4096) : (s.skipIf c).pc.toNat ≤ 0x10FE := by
  rw [State.skipIf_eq, State.setPc_pc]
  cases c
  · exact Nat.le_trans hpc (by decide)
  · show (s.pc + 2).toNat ≤ _
    bv_omega

/-- A key skip moves `PC` by at most two (R161, R162). -/
theorem keySkip_pc_le {x : Nibble} {wanted : Bool} {s t : State} (hpc : s.pc.toNat ≤ 4096)
    (h : keySkip x wanted s = .next t) : t.pc.toNat ≤ 0x10FE := by
  rcases keySkip_cases x wanted s with ⟨-, hskip⟩ | ⟨-, hfault⟩
  · rw [hskip] at h
    cases h
    exact State.skipIf_pc_le _ hpc
  · rw [hfault] at h
    cases h
    exact Nat.le_trans hpc (by decide)

/-- From a post-fetch `PC` an instruction goes on, skips, waits at its own address, returns, or jumps to at most 4095 + 255 (R94). -/
theorem exec_pcBound {i : Instr} {s t : State} (h : exec i s = .next t) (hlo : 2 ≤ s.pc.toNat) (hhi : s.pc.toNat ≤ 4096)
    (hstack : ∀ k : Fin 16, k.val < s.sp.val → (s.stack.get k).toNat ≤ 4096) : t.pc.toNat ≤ 0x10FE := by
  obtain ⟨hframe, -⟩ := exec_frame h
  cases i
  case ret =>
    rcases State.pop_cases s with ⟨-, hpop⟩ | ⟨k, s', hk, hpop, -⟩
    · rw [exec_ret_of_pop_none hpop] at h
      cases h
      exact Nat.le_trans hhi (by decide)
    · rw [exec_ret_of_pop_some hpop] at h
      cases h
      exact Nat.le_trans (hstack k (by omega)) (by decide)
  case jump nnn =>
    cases h
    rw [State.setPc_pc, zextAddr_toNat]
    omega
  case jumpv0 nnn =>
    cases h
    rw [State.setPc_pc, zextAddr_add_zextByte_toNat]
    omega
  case call nnn =>
    rcases State.push_cases s s.pc with ⟨-, s', hpush, -⟩ | ⟨-, hpush⟩
    · rw [exec_call_of_push_some hpush] at h
      cases h
      rw [State.setPc_pc, zextAddr_toNat]
      omega
    · rw [exec_call_of_push_none hpush] at h
      cases h
      exact Nat.le_trans hhi (by decide)
  case sifeqi | sifnei | sifeq | sifne =>
    obtain rfl := Host.Outcome.next.inj h
    exact State.skipIf_pc_le _ hhi
  case sifkeq | sifkne => exact keySkip_pc_le hhi h
  case keyr x =>
    rcases hwake : s.wake with _ | k
    · rw [exec_keyr_of_none hwake] at h
      cases h
      show (s.pc - 2).toNat ≤ _
      bv_omega
    · rw [exec_keyr_of_some hwake] at h
      cases h
      exact Nat.le_trans hhi (by decide)
  all_goals exact (congrArg (fun u => u.pc.toNat) hframe :).trans_le (Nat.le_trans hhi (by decide))

/-- An instruction keeps the invariant, from a post-fetch `PC` inside a frame. -/
theorem Inv.exec {i : Instr} {s t : State} (hinv : Inv s) (hframe : s.phase ≠ .idle) (hlo : 2 ≤ s.pc.toNat)
    (hhi : s.pc.toNat ≤ 4096) (h : exec i s = .next t) : Inv t := by
  obtain ⟨-, hstatus⟩ := exec_frame h
  have hmem := exec_keeps_memForm h hinv.memForm
  have hhaltOrWake := exec_keeps_haltOrWake h hinv.haltOrWake
  have hpcBound := exec_pcBound h hlo hhi hinv.stackBound
  have hstackBound := exec_keeps_stackBound h hhi hinv.stackBound
  rw [← exec_keeps_hidden h]
  exact
    { memForm := hmem
      accFraction := fun c => by rw [State.withHidden_acc]; exact hinv.accFraction c
      inFormat := fun c => by rw [State.withHidden_acc, State.withHidden_bias]; exact hinv.inFormat c
      haltOrWake := hhaltOrWake
      pcBound := hpcBound
      stackBound := hstackBound
      queueBound := fun c => by rw [State.withHidden_queueLength]; exact hinv.queueBound c
      oneTick := hinv.oneTick
      frameDone := fun hidle => absurd hidle hframe
      frameReset := fun hdispatch => by
        show t.status ≠ .uninitialized
        rcases hstatus with hkept | ⟨f, hfault⟩
        · rw [hkept]
          exact hinv.frameReset hdispatch
        · rw [hfault]
          exact fun hinit => by cases hinit }

/-! ### The invariant under the steps of the controllers -/

/-- A cycle keeps the invariant (R90, R95). -/
theorem Inv.cpuCycle {s t : State} (hinv : Inv s) (hframe : s.phase ≠ .idle) (h : cpuCycle s = .next t) : Inv t := by
  rcases Nat.lt_or_ge 4094 s.pc.toNat with hout | hin
  · rw [cpuCycle_of_fetch_error (State.fetch_error hout)] at h
    cases h
    exact hinv.setStatus_faulted _
  · have hpc : (s.pc + 2).toNat = s.pc.toNat + 2 := by bv_omega
    have hinv' : Inv (s.setPc (s.pc + 2)) := hinv.setPc (by omega)
    rw [cpuCycle_of_fetch_ok (State.fetch_ok hin)] at h
    cases hdecode : decodeWord (s.byteAt s.pc.toNat ++ s.byteAt (s.pc.toNat + 1)) with
    | error r =>
      rw [runWord_of_error hdecode] at h
      cases h
      exact hinv'.setStatus_faulted _
    | ok i =>
      rw [runWord_of_ok hdecode] at h
      exact hinv'.exec hframe (by rw [State.setPc_pc]; omega) (by rw [State.setPc_pc]; omega) h

/-- Everything Sound's step can do (R179, R180, R217). -/
theorem soundStep_cases (s : State) :
    (∃ n, s.leftSound = n + 1 ∧ soundStep s = .next (soundTick { s with leftSound := n })) ∨
    (∃ n q, s.qSound = n :: q ∧ soundStep s = .next { s with qSound := q, leftSound := n }) ∨
    soundStep s = .next s := by
  rcases hleft : s.leftSound with _ | n
  · rcases hq : s.qSound with _ | ⟨n, q⟩
    · exact .inr (.inr (by rw [soundStep, hleft, hq]))
    · exact .inr (.inl ⟨n, q, rfl, soundStep_of_tick hleft hq⟩)
  · exact .inl ⟨n, rfl, soundStep_of_left hleft⟩

/-- Everything Timer's step can do (R179, R180, R216). -/
theorem timerStep_cases (s : State) :
    (∃ n, s.leftTimer = n + 1 ∧ timerStep s = .next (timerTick { s with leftTimer := n })) ∨
    (∃ n q, s.qTimer = n :: q ∧ timerStep s = .next { s with qTimer := q, leftTimer := n }) ∨
    timerStep s = .next s := by
  rcases hleft : s.leftTimer with _ | n
  · rcases hq : s.qTimer with _ | ⟨n, q⟩
    · exact .inr (.inr (by rw [timerStep, hleft, hq]))
    · exact .inr (.inl ⟨n, q, rfl, timerStep_of_tick hleft hq⟩)
  · exact .inl ⟨n, rfl, timerStep_of_left hleft⟩

/-- Everything the CPU's step can do (R165, R179, R180). -/
theorem cpuStep_cases (s : State) :
    (∃ n, s.leftCpu = n + 1 ∧ cpuStep s = cpuCycle { s with leftCpu := n }) ∨
    (∃ n q, s.qCpu = .tick n :: q ∧ cpuStep s = .next { s with qCpu := q, leftCpu := n }) ∨
    (∃ key pressed q, s.qCpu = .input key pressed :: q ∧
      cpuStep s = .next (inputEvent key pressed { s with qCpu := q })) ∨
    cpuStep s = .next s := by
  by_cases hleft : s.leftCpu = 0
  · rcases hq : s.qCpu with _ | ⟨n | ⟨key, pressed⟩, q⟩
    · exact .inr (.inr (.inr (by rw [cpuStep, hleft, hq])))
    · exact .inr (.inl ⟨n, q, rfl, cpuStep_of_tick hleft hq⟩)
    · exact .inr (.inr (.inl ⟨key, pressed, q, rfl, cpuStep_of_input hleft hq⟩))
  · obtain ⟨n, hn⟩ := Nat.exists_eq_succ_of_ne_zero hleft
    exact .inl ⟨n, hn, cpuStep_of_left hn⟩

section
variable {s t : State} (hinv : Inv s) (hframe : s.phase ≠ .idle)
include hinv hframe

/-- Sound's step keeps the invariant. -/
theorem Inv.soundStep (h : soundStep s = .next t) : Inv t := by
  rcases soundStep_cases s with ⟨n, -, hstep⟩ | ⟨n, q, hq, hstep⟩ | hstep <;> rw [hstep] at h <;> cases h
  · exact (hinv.setLeft hframe .sound n).soundTick hframe
  · have hle := hinv.oneTick.1
    rw [hq, List.length_cons] at hle
    exact (hinv.setQSound hframe (q := q) (by omega)).setLeft hframe .sound n
  · exact hinv

/-- Timer's step keeps the invariant. -/
theorem Inv.timerStep (h : timerStep s = .next t) : Inv t := by
  rcases timerStep_cases s with ⟨n, -, hstep⟩ | ⟨n, q, hq, hstep⟩ | hstep <;> rw [hstep] at h <;> cases h
  · exact (hinv.setLeft hframe .timer n).timerTick
  · have hle := hinv.oneTick.2
    rw [hq, List.length_cons] at hle
    exact (hinv.setQTimer hframe (q := q) (by omega)).setLeft hframe .timer n
  · exact hinv

/-- The CPU's step keeps the invariant. -/
theorem Inv.cpuStep (h : cpuStep s = .next t) : Inv t := by
  have hle : s.qCpu.length ≤ Config.queueCap := hinv.queueBound .cpu
  rcases cpuStep_cases s with ⟨n, -, hstep⟩ | ⟨n, q, hq, hstep⟩ | ⟨key, pressed, q, hq, hstep⟩ | hstep <;> rw [hstep] at h
  · exact (hinv.setLeft hframe .cpu n).cpuCycle hframe h
  · cases h
    rw [hq, List.length_cons] at hle
    exact (hinv.setQCpu (q := q) (by omega)).setLeft hframe .cpu n
  · cases h
    rw [hq, List.length_cons] at hle
    exact (hinv.setQCpu (q := q) (by omega)).inputEvent key pressed
  · cases h
    exact hinv

/-- A step of any controller keeps the invariant. -/
theorem Inv.controllerStep {c : Ctrl} (h : controllerStep c s = .next t) : Inv t := by
  cases c
  · exact hinv.cpuStep hframe h
  · exact hinv.soundStep hframe h
  · exact hinv.timerStep hframe h

end

/-- A running block whose controllers have no work has no tick left and empty queues (R182, R184). -/
theorem no_work_of_pick_none {s : State} (hrun : s.status = .running) (hnone : pickController s = none) :
    s.leftCpu = 0 ∧ s.leftSound = 0 ∧ s.leftTimer = 0 ∧ s.qSound = [] ∧ s.qTimer = [] := by
  have hgoes : s.aborted = false := s.aborted_eq_false_iff.mpr (.inr (by simp [hrun]))
  have hidle := (pickController_eq_none_iff s).mp hnone
  have hcpu := s.hasWork_cpu_iff
  have hsound := s.hasWork_sound_iff
  have htimer := s.hasWork_timer_iff
  simp only [hidle, hrun, hgoes, Bool.false_eq_true, true_and, false_iff, not_or, not_not] at hcpu hsound htimer
  exact ⟨hcpu.1, hsound.1, htimer.1, hsound.2, htimer.2⟩

/-- The end of a frame keeps the invariant: a running block is left with nothing to do (R182, R184, R187). -/
theorem Inv.finishFrame {s : State} (hinv : Inv s) (hframe : s.phase = .dispatch) (hnone : pickController s = none) :
    Inv (finishFrame s) := by
  cases hstatus : s.status with
  | uninitialized => exact absurd hstatus (hinv.frameReset hframe)
  | running =>
    obtain ⟨hcpu, hsound, htimer, hqs, hqt⟩ := no_work_of_pick_none hstatus hnone
    rw [finishFrame_of_running hstatus]
    exact
      { hinv with
        frameDone := fun _ _ => ⟨hcpu, hsound, htimer, hqs, hqt, rfl⟩
        frameReset := fun h => by cases h }
  | faulted f =>
    rw [finishFrame_of_faulted hstatus]
    have hnot : s.status ≠ .running := by rw [hstatus]; exact fun h => by cases h
    cases Config.deliverOnFault s.draws <;>
      exact
        { hinv with
          frameDone := fun _ hrun => absurd hrun hnot
          frameReset := fun h => by cases h }

/-- A step inside a frame keeps the invariant. -/
theorem Inv.dispatch {s t : State} (hinv : Inv s) (hphase : s.phase = .dispatch) (h : step s = .next t) : Inv t := by
  have hframe : s.phase ≠ .idle := by rw [hphase]; exact fun h => by cases h
  rcases pickController_cases s with ⟨hnone, -⟩ | ⟨c, u, hpick, -, rfl | rfl⟩
  · rw [step_of_pick_none hphase hnone] at h
    cases h
    exact hinv.finishFrame hphase hnone
  · rw [step_of_pick hphase hpick] at h
    exact hinv.controllerStep hframe h
  · rw [step_of_pick hphase hpick] at h
    exact hinv.countDraw.controllerStep hframe h

/-! ### The invariant under the operations of the host -/

/-- A reset establishes the invariant, whatever the state was but for its biases (R231). -/
theorem Inv.resetTo {s : State} (hbias : ∀ c, (s.bias c).representable) {m : Memory} (hm : Memory.wf m) :
    Inv (resetTo m s) :=
  { invAtReset with
    memForm := hm
    inFormat := fun c => ⟨(invAtReset.inFormat c).1, hbias c⟩ }

/-- The start of a frame keeps the invariant: between frames the two tick queues of a running block are empty (R178, R182). -/
theorem Inv.startFrame {s : State} (hinv : Inv s) (hrun : s.status = .running) (hroom : s.qCpu.length < Config.queueCap)
    (hqs : s.qSound = []) (hqt : s.qTimer = []) {cpu sound timer : Nat × F64}
    (hcpu : cpu.2.units < F64.oneUnits ∧ cpu.2.representable)
    (hsound : sound.2.units < F64.oneUnits ∧ sound.2.representable)
    (htimer : timer.2.units < F64.oneUnits ∧ timer.2.representable) :
    Inv { s with
      accCpu := cpu.2, accSound := sound.2, accTimer := timer.2
      qCpu := s.qCpu ++ [.tick cpu.1], qSound := s.qSound ++ [sound.1], qTimer := s.qTimer ++ [timer.1]
      phase := .dispatch, response := none, delivered := [] } := by
  have hqCpu : (s.qCpu ++ [Event.tick cpu.1]).length ≤ Config.queueCap := by
    rw [List.length_append]
    exact hroom
  have hqSound : (s.qSound ++ [sound.1]).length ≤ 1 := by rw [hqs]; exact Nat.le_refl 1
  have hqTimer : (s.qTimer ++ [timer.1]).length ≤ 1 := by rw [hqt]; exact Nat.le_refl 1
  exact
    { hinv with
      accFraction := fun c => match c with
        | .cpu => hcpu.1
        | .sound => hsound.1
        | .timer => htimer.1
      inFormat := fun c => match c with
        | .cpu => ⟨hcpu.2, (hinv.inFormat .cpu).2⟩
        | .sound => ⟨hsound.2, (hinv.inFormat .sound).2⟩
        | .timer => ⟨htimer.2, (hinv.inFormat .timer).2⟩
      queueBound := fun c => match c with
        | .cpu => hqCpu
        | .sound => Nat.le_trans hqSound one_le_queueCap
        | .timer => Nat.le_trans hqTimer one_le_queueCap
      oneTick := ⟨hqSound, hqTimer⟩
      frameDone := fun h => by cases h
      frameReset := fun _ hinit => by rw [show s.status = _ from hinit] at hrun; cases hrun }

/-- `run` keeps the invariant (R189). -/
theorem Inv.hostRun {s t : State} (hinv : Inv s) (hidle : s.phase = .idle) {micros : Nat} (h : hostRun micros s = .next t) :
    Inv t := by
  cases hstatus : s.status with
  | uninitialized =>
    obtain rfl := Host.Outcome.next.inj ((hostRun_uninitialized micros hstatus).symm.trans h)
    exact hinv.respond _
  | faulted f =>
    obtain rfl := Host.Outcome.next.inj ((hostRun_faulted micros hstatus).symm.trans h)
    exact hinv.respond _
  | running =>
    obtain ⟨-, -, -, hqs, hqt, -⟩ := hinv.frameDone hidle hstatus
    rcases hostRun_running micros hstatus with ⟨c, -, hrefused⟩ | ⟨hroom, hnext⟩
    · rw [hrefused] at h
      cases h
    · rw [← Host.Outcome.next.inj (hnext.symm.trans h)]
      exact hinv.startFrame hstatus (hroom .cpu) hqs hqt (ticksFor_spec s .cpu micros).2 (ticksFor_spec s .sound micros).2
        (ticksFor_spec s .timer micros).2

/-- A key event keeps the invariant (R190). -/
theorem Inv.hostSetKey {s t : State} (hinv : Inv s) {key : Nat} {pressed : Bool} (h : hostSetKey key pressed s = .next t) :
    Inv t := by
  rcases hostSetKey_cases key pressed s with ⟨-, hnext⟩ | ⟨-, ⟨-, hnext⟩ |
    ⟨k, -, ⟨hroom, hnext⟩ | ⟨-, -, hrefused⟩ | ⟨-, -, hnext⟩⟩⟩
  case inr.inr.inl =>
    obtain rfl := Host.Outcome.next.inj (hnext.symm.trans h)
    exact (hinv.setQCpu (by rw [List.length_append]; exact hroom)).respond _
  case inr.inr.inr.inl =>
    rw [hrefused] at h
    cases h
  all_goals
    obtain rfl := Host.Outcome.next.inj (hnext.symm.trans h)
    exact hinv.respond _

/-- A change of bias keeps the invariant: the bits are those of a number of the format (R173, R174, R192). -/
theorem Inv.hostSetBias {s t : State} (hinv : Inv s) {c : Ctrl} {bits : BitVec 64} (h : hostSetBias c bits s = .next t) :
    Inv t := by
  cases hb : F64.ofBits bits with
  | none =>
    rw [hostSetBias_of_none hb] at h
    cases h
  | some b =>
    rw [hostSetBias_of_some hb] at h
    cases h
    have hbias : ∀ d, ((s.setBias c b).bias d).representable := fun d => by
      rw [State.bias_setBias]
      split
      · exact F64.ofBits_representable hb
      · exact (hinv.inFormat d).2
    have hinv' : Inv (s.setBias c b) := by
      rw [State.setBias_frame]
      exact { hinv with inFormat := fun d => ⟨(hinv.inFormat d).1, hbias d⟩ }
    exact hinv'.respond _

/-- Every operation of the host keeps the invariant. -/
theorem Inv.hostOperation {s t : State} (hinv : Inv s) (hidle : s.phase = .idle) {op : HostOp}
    (h : hostOperation op s = .next t) : Inv t := by
  cases op with
  | reset image font =>
    rcases hostReset_cases image font s with ⟨rom, m, -, -, hload, hnext⟩ | ⟨-, c, hnext⟩
    · obtain rfl := Host.Outcome.next.inj (hnext.symm.trans h)
      exact Inv.resetTo (fun c => (hinv.inFormat c).2) (Memory.load_ok hload).1
    · obtain rfl := Host.Outcome.next.inj (hnext.symm.trans h)
      exact hinv.respond _
  | run micros => exact hinv.hostRun hidle h
  | setKey key pressed => exact hinv.hostSetKey h
  | dumpMemory writable =>
    rcases hostDump_cases writable s with ⟨-, hnext⟩ | ⟨-, -, hnext⟩ | ⟨-, -, hnext⟩ <;>
      obtain rfl := Host.Outcome.next.inj (hnext.symm.trans h) <;> exact hinv.respond _
  | setBias c bits => exact hinv.hostSetBias h
  | setDispatch mode =>
    obtain rfl := Host.Outcome.next.inj h
    exact { hinv with }
  | setCallbacks video audio =>
    obtain rfl := Host.Outcome.next.inj h
    exact { hinv with }

/-- Everything a step between frames is: an operation of the host, taken from its list or given by the free choice (R193). -/
theorem step_idle_cases {s : State} (hidle : s.phase = .idle) :
    (∃ op rest, s.pending = op :: rest ∧ step s = hostOperation op { s with pending := rest }) ∨
    (s.pending = [] ∧ step s = hostOperation (Config.hostOp s.draws) s.countDraw) := by
  cases hp : s.pending with
  | nil => exact .inr ⟨rfl, (step_of_idle hidle).trans (hostStep_of_nil hp)⟩
  | cons op rest => exact .inl ⟨op, rest, rfl, (step_of_idle hidle).trans (hostStep_of_pending hp)⟩

/-- Settles O56: inside a frame by the controllers' steps and the frame's end, between frames by the host's operations. -/
theorem stepKeepsInv : Obligations.StepKeepsInv := by
  unfold Obligations.StepKeepsInv
  intro s t hinv h
  cases hphase : s.phase with
  | dispatch => exact hinv.dispatch hphase h
  | idle =>
    rcases step_idle_cases hphase with ⟨op, rest, -, hstep⟩ | ⟨-, hstep⟩ <;> rw [hstep] at h
    · exact (hinv.setPending rest).hostOperation hphase h
    · exact hinv.countDraw.hostOperation hphase h

/-! ### A fault is sticky -/

/-- `t` has the status of `s` and its CPU as it was. -/
def keepsCpuAndStatus (s t : State) : Prop := t.status = s.status ∧ sameCpuState s t

/-- Cited also for a next state that differs from `s` in other fields alone: the fields named are then the same by definition. -/
theorem keepsCpuAndStatus_refl (s : State) : keepsCpuAndStatus s s :=
  ⟨rfl, rfl, rfl, rfl, rfl, rfl, rfl, rfl, rfl, rfl, rfl⟩

/-- The end of a frame leaves the CPU and the status (R206). -/
theorem finishFrame_keepsCpuAndStatus {s : State} {f : Fault} (h : s.status = .faulted f) :
    keepsCpuAndStatus s (finishFrame s) := by
  rw [finishFrame_of_faulted h]
  cases Config.deliverOnFault s.draws <;> exact keepsCpuAndStatus_refl s

/-- Sound's step leaves the CPU and the status (R217). -/
theorem soundStep_keepsCpuAndStatus {s t : State} (h : soundStep s = .next t) : keepsCpuAndStatus s t := by
  rcases soundStep_cases s with ⟨n, -, hstep⟩ | ⟨n, q, -, hstep⟩ | hstep <;> rw [hstep] at h <;> cases h
  · rw [soundTick_frame]
    exact keepsCpuAndStatus_refl s
  · exact keepsCpuAndStatus_refl s
  · exact keepsCpuAndStatus_refl s

/-- Timer's step leaves the CPU and the status (R216). -/
theorem timerStep_keepsCpuAndStatus {s t : State} (h : timerStep s = .next t) : keepsCpuAndStatus s t := by
  rcases timerStep_cases s with ⟨n, -, hstep⟩ | ⟨n, q, -, hstep⟩ | hstep <;> rw [hstep] at h <;> cases h
  · rw [timerTick_frame]
    exact keepsCpuAndStatus_refl s
  · exact keepsCpuAndStatus_refl s
  · exact keepsCpuAndStatus_refl s

/-- A step inside a frame of a faulted block leaves the CPU and the status: the CPU is not picked (R206, R212). -/
theorem step_dispatch_keepsCpuAndStatus {s t : State} {f : Fault} (hfault : s.status = .faulted f)
    (hphase : s.phase = .dispatch) (h : step s = .next t) : keepsCpuAndStatus s t := by
  rcases pickController_cases s with ⟨hnone, -⟩ | ⟨c, u, hpick, hwork, hu⟩
  · rw [step_of_pick_none hphase hnone] at h
    cases h
    exact finishFrame_keepsCpuAndStatus hfault
  · rw [step_of_pick hphase hpick] at h
    cases c with
    | cpu =>
      obtain ⟨hrun, -⟩ := s.hasWork_cpu_iff.mp hwork
      rw [hfault] at hrun
      cases hrun
    | sound =>
      have hkept : keepsCpuAndStatus u t := soundStep_keepsCpuAndStatus h
      rcases hu with rfl | rfl <;> exact hkept
    | timer =>
      have hkept : keepsCpuAndStatus u t := timerStep_keepsCpuAndStatus h
      rcases hu with rfl | rfl <;> exact hkept

/-- A key event leaves the CPU and the status: it only enqueues (R190). -/
theorem hostSetKey_keepsCpuAndStatus {s t : State} {key : Nat} {pressed : Bool} (h : hostSetKey key pressed s = .next t) :
    keepsCpuAndStatus s t := by
  rcases hostSetKey_cases key pressed s with ⟨-, hnext⟩ | ⟨-, ⟨-, hnext⟩ |
    ⟨k, -, ⟨-, hnext⟩ | ⟨-, -, hrefused⟩ | ⟨-, -, hnext⟩⟩⟩
  case inr.inr.inr.inl =>
    rw [hrefused] at h
    cases h
  all_goals
    obtain rfl := Host.Outcome.next.inj (hnext.symm.trans h)
    exact keepsCpuAndStatus_refl s

/-- A change of bias leaves the CPU and the status (R192). -/
theorem hostSetBias_keepsCpuAndStatus {s t : State} {c : Ctrl} {bits : BitVec 64} (h : hostSetBias c bits s = .next t) :
    keepsCpuAndStatus s t := by
  cases hb : F64.ofBits bits with
  | none =>
    rw [hostSetBias_of_none hb] at h
    cases h
  | some b =>
    obtain rfl := Host.Outcome.next.inj ((hostSetBias_of_some hb c s).symm.trans h)
    rw [State.setBias_frame]
    exact keepsCpuAndStatus_refl s

/-- An operation of the host on a faulted block leaves the CPU and the status, unless it is a `reset` with an image that fits (R206, R231). -/
theorem hostOperation_faulted {s t : State} {f : Fault} (hfault : s.status = .faulted f) {op : HostOp}
    (h : hostOperation op s = .next t) :
    keepsCpuAndStatus s t ∨
      ∃ rom font, op = .reset (some rom) font ∧ rom.length ≤ 3584 ∧ t.status = .running ∧ t.pc = 0x0200 := by
  have hkept := keepsCpuAndStatus_refl s
  cases op with
  | reset image font =>
    rcases hostReset_cases image font s with ⟨rom, m, rfl, hrom, -, hnext⟩ | ⟨-, c, hnext⟩
    · obtain rfl := Host.Outcome.next.inj (hnext.symm.trans h)
      exact .inr ⟨rom, font, rfl, hrom, rfl, rfl⟩
    · obtain rfl := Host.Outcome.next.inj (hnext.symm.trans h)
      exact .inl hkept
  | run micros =>
    obtain rfl := Host.Outcome.next.inj ((hostRun_faulted micros hfault).symm.trans h)
    exact .inl hkept
  | setKey key pressed => exact .inl (hostSetKey_keepsCpuAndStatus h)
  | dumpMemory writable =>
    rcases hostDump_cases writable s with ⟨-, hnext⟩ | ⟨-, -, hnext⟩ | ⟨-, -, hnext⟩ <;>
      obtain rfl := Host.Outcome.next.inj (hnext.symm.trans h) <;> exact .inl hkept
  | setBias c bits => exact .inl (hostSetBias_keepsCpuAndStatus h)
  | setDispatch mode =>
    obtain rfl := Host.Outcome.next.inj h
    exact .inl hkept
  | setCallbacks video audio =>
    obtain rfl := Host.Outcome.next.inj h
    exact .inl hkept

/-- Settles O50: inside a frame the CPU is not picked, and of the host's operations a `reset` that succeeds alone touches it. -/
theorem faultIsSticky : Obligations.FaultIsSticky := by
  unfold Obligations.FaultIsSticky
  intro s t f hfault h
  rw [← hfault]
  cases hphase : s.phase with
  | dispatch => exact .inl (step_dispatch_keepsCpuAndStatus hfault hphase h)
  | idle =>
    rcases step_idle_cases hphase with ⟨op, rest, hp, hstep⟩ | ⟨hp, hstep⟩ <;> rw [hstep] at h
    · refine (hostOperation_faulted (s := { s with pending := rest }) hfault h).imp id ?_
      rintro ⟨rom, font, rfl, hrom, hrun⟩
      exact ⟨rfl, ⟨rom, font, .inl (by rw [hp]; rfl), hrom⟩, hrun⟩
    · refine (hostOperation_faulted (s := s.countDraw) hfault h).imp id ?_
      rintro ⟨rom, font, hop, hrom, hrun⟩
      exact ⟨rfl, ⟨rom, font, .inr ⟨hp, hop⟩, hrom⟩, hrun⟩

end Sys2Proof.Machine
end
